-- ==== Sys2Proof/Word.lean ====
section
/-! DEFINITION. The words of the PMX engine: bytes of the bus port and command words of the command port
(spec/00_scope.md R13, R14: bit 0 is the least significant bit; every integer of the block is unsigned). -/

namespace Sys2Proof

/-- A byte on the bus port: a register address operand, a data byte, a frame byte. -/
abbrev Byte := BitVec 8

/-- A command word, format CW (R88). -/
abbrev CommandWord := BitVec 32

/-- The level of the chip-select line (R15, R22): low = asserted, high = deasserted = idle. -/
inductive Level where
  | low
  | high
  deriving DecidableEq, Repr, Inhabited

/-- The one bit the spec writes for a level: `0` = low, `1` = high (R15, R22). -/
def Level.bit : Level → BitVec 1
  | .low => 0#1
  | .high => 1#1

end Sys2Proof
end

