-- ==== Sys2Proof/Config.lean ====
section
/-! DEFINITION. What the platform decides (spec/00_scope.md R10, spec/92_eei_decisions.md, the open parameters): the outcome
of each serial call and the slave's bytes, as free values, and the open parameters, of which the
block's own rules depend on none. -/

namespace Sys2Proof

/-- What the platform and the slave do with one call of a serial primitive, a free draw per call (R113, R58, R123).
* `ok bytes`: the call returns `ok`; for `SpiRx` the slave answers `bytes`, for `SpiTx` they are not sampled (R121);
* `fail sent`: the call returns `fail`; for `SpiTx` the first `sent` bytes were shifted out (any prefix, U1), for `SpiRx`
  nothing is observed of what the slave shifted out;
* `hang`: the call never returns (R123, R247, U8). -/
inductive SpiAnswer where
  | ok (bytes : List Byte)
  | fail (sent : Nat)
  | hang
  deriving DecidableEq, Repr, Inhabited

/-- FREE VALUE (log 2): the outcome of the `k`-th serial call for which `State.answers` holds no answer. -/
opaque Config.freeAnswer : Nat → SpiAnswer

/-- FREE VALUE (log 2): byte `i` the slave returns in serial call `k`, where the answer in hand names fewer bytes than the call
asks for. -/
opaque Config.slaveByte : Nat → Nat → Byte

/-- `MAX_READ_LEN` of R10 and R90 (D13): the largest `length` one `XRD` command word holds. -/
def Config.maxReadLen : Nat := 255

/-- `SPI_CLOCK_HZ` of R9 and R10 is OPEN (reference default 500000 Hz, D32): no rule depends on it, so it has no value here
(log 14). -/
opaque Config.spiClockHz : Nat

/-- `RX_FILL` of R10 and R121 is OPEN (default 0x00, D15): the byte driven while bytes are clocked in, not in the byte-level
trace (log 14). -/
opaque Config.rxFill : Byte

/-- `TEMP_ROUND` of R10 is OPEN (D27, U11): what a finite realisation of the temperature makes of the quotient of `num` by `den`
(R172). A realisation may be any that meets the tolerance of R171, so the parameter has no value here; `temperatureRounded` bounds
it (log 12). -/
opaque Config.tempRound (num den : Rat) : Rat

/-- Clock polarity and clock phase of the serial mode, both 1 (R9, R86): fixed, and set by the platform before first use (R236);
the block has no command that changes it. -/
def Config.spiMode : BitVec 1 × BitVec 1 := (1#1, 1#1)

end Sys2Proof
end

