-- ==== Sys2Proof/Syntax.lean ====
section
/-! DEFINITION. The instructions of the PMX engine: one constructor per row of spec/opcode_table.json, seven commands
(spec/30_encoding.md R89) and the two wire frames (R81, R82). -/

namespace Sys2Proof

/-- One constructor per row of the opcode table. `RDRTD` is an assembler's second name of `RDRAW` (R98), with the same word. -/
inductive Instr where
  /-- `XWR addr, value` (R116). -/
  | xwr (addr value : Byte)
  /-- `XRD addr, length` (R119). The length is a natural number used as a count (R124); a command word holds up to 255 (R90). -/
  | xrd (addr : Byte) (length : Nat)
  /-- `INIT mode, UR, UN` (R145): the mode field as encoded (R91) and the flags that select `arg_r` and `arg_n` (R92). -/
  | init (mode : BitVec 2) (ur un : Bool)
  /-- `RDRAW`, alias `RDRTD` (R162, R98). -/
  | rdraw
  /-- `RDRES`, with the flag that selects `arg_r` (R166). -/
  | rdres (ur : Bool)
  /-- `RDTMP`, with the flags that select `arg_r` and `arg_n` (R169). -/
  | rdtmp (ur un : Bool)
  /-- `DEINIT` (R149). -/
  | deinit
  /-- The write frame `1aaaaaaa dddddddd` (R81): the write transaction on the wire (R115). -/
  | wframe (a : BitVec 7) (d : Byte)
  /-- The read frame's header `0aaaaaaa` (R82): the read transaction on the wire (R118). The number of bytes that follow is not in
  the frame (R84). -/
  | rframe (a : BitVec 7)
  deriving DecidableEq, Repr

/-- An instruction as it is presented: a command word on the command port (R88), or the bytes of a frame the block sends
(R80). -/
inductive Code where
  | command (w : CommandWord)
  | frame (sent : List Byte)
  deriving DecidableEq, Repr

end Sys2Proof
end

