-- ==== Sys2Proof/Machine/State.lean ====
section
/-! DEFINITION. The state of the PMX engine as plain data (spec/10_state.md R33): the spec's six elements, the operands on the
command port, and the model's own record of inputs and observations (logs 1, 2, 3). The block has no register file, no program
counter, no flags, no memory (R20, R21, R28, R58; log 4). -/

namespace Sys2Proof.Machine

/-- `DSTATE` (R23): whether `INIT` has completed. -/
inductive DState where
  | unconfigured
  | configured
  deriving DecidableEq, Repr

/-- `WMODE` (R24): the wiring mode. -/
inductive WMode where
  | w2
  | w3
  | w4
  deriving DecidableEq, Repr

/-- `PHASE` (R27): progress inside one transaction. -/
inductive Phase where
  | idle
  | selected
  | sent
  | received
  deriving DecidableEq, Repr

/-- The status codes of a response (R191). -/
inductive Status where
  | ok
  | eIllegal
  | eState
  | eParam
  | eLength
  | eBus
  deriving DecidableEq, Repr

/-- What a response carries beside its status (R11, R95): nothing, the bytes read in transmission order, a raw code
zero-extended to 16 bits, or a rational (ohms or degrees Celsius). -/
inductive Payload where
  | none
  | bytes (bs : List Byte)
  | raw (code : BitVec 16)
  | value (q : Rat)
  deriving DecidableEq, Repr

/-- One response of the response port (R95). -/
structure Response where
  status : Status
  payload : Payload
  deriving DecidableEq, Repr

/-- One event of the bus trace (R16). -/
inductive BusEvent where
  | csLow
  | csHigh
  | tx (bytes : List Byte)
  | txFail (bytes : List Byte)
  | rx (bytes : List Byte)
  | rxFail
  deriving DecidableEq, Repr

/-- What the host does to the block (R11, R230).
* `command w r n`: a command word with its side operands `arg_r`, `arg_n` (R88);
* `frame sent len`: a bare wire frame with the number of bytes to receive; no rule of the spec gives a host this, it is how the
  model runs the two frame rows of the opcode table (log 5);
* `reset`: the block's one reset (R230). -/
inductive HostEvent where
  | command (w : CommandWord) (argR argN : Option Rat)
  | frame (sent : List Byte) (len : Nat)
  | reset
  deriving DecidableEq, Repr

/-- Why the machine stops with a fault. -/
inductive Fault where
  /-- Raised by `RDRES` and `RDTMP` when `DSTATE` is CONFIGURED and the element of the handle they read (`RREF`, `RNOM`) holds no
  positive value. No run reaches such a state (R231, D20), and the formulas are never evaluated outside their domain (U2).
  SAFE: the machine stops where the spec gives no value (log 11). -/
  | noHandleValue
  deriving DecidableEq, Repr

/-- Why the machine gives no meaning to what it was asked. -/
inductive Refusal where
  /-- Raised by an arm of `exec` whose instruction has no meaning yet. SAFE. No arm does. -/
  | notModelled (mnemonic : String)
  /-- Raised by every instruction that starts a transaction, in a state where chip-select is low or `PHASE` is not IDLE
  (R122, U3, D17: a model handed such a state refuses). No run starts a transaction there. SAFE (log 10). -/
  | transactionNotIdle
  /-- Raised by `step` on a bare frame whose bytes are no frame of R81 or R82. Only the model's own frame input can hold one (log 5).
  SAFE. -/
  | notAFrame
  deriving DecidableEq, Repr

end Sys2Proof.Machine

namespace Sys2Proof.Machine

/-- The whole state. -/
structure State where
  /-- `CS`, the chip-select output level (R22). -/
  cs : Level
  /-- `DSTATE` (R23). -/
  dstate : DState
  /-- `WMODE` (R24); `none` is the spec's "holds no value" (R231, R149). -/
  wmode : Option WMode
  /-- `RREF`, ohms (R25); `none` is "holds no value". -/
  rref : Option Rat
  /-- `RNOM`, ohms (R26); `none` is "holds no value". -/
  rnom : Option Rat
  /-- `PHASE` (R27). -/
  phase : Phase
  /-- The side operand `arg_r` on the command port (R88). -/
  argR : Option Rat
  /-- The side operand `arg_n` on the command port (R88). -/
  argN : Option Rat
  /-- The number of bytes a bare read frame is to receive (R84; the model's own, log 6). -/
  argLen : Nat
  /-- What the host has yet to do, first event first (the model's own, log 1). -/
  inbox : List HostEvent
  /-- The answers of the platform and the slave lined up for the coming serial calls, next call first; a call beyond them draws
  `Config.freeAnswer` (the model's own, log 2). -/
  answers : List SpiAnswer
  /-- How many serial calls were made: the index of the free draws (the model's own, log 2). -/
  draws : Nat
  /-- The bus trace, oldest event first (R16; an observation, log 3). -/
  trace : List BusEvent
  /-- The responses given, oldest first (R95; an observation, log 3). -/
  responses : List Response
  deriving DecidableEq, Repr

/-- The state after reset (R231): chip-select high, `PHASE` IDLE, UNCONFIGURED, the handle's three elements holding no value, the
bus trace empty. The model's own fields start empty (log 9). -/
def State.reset : State where
  cs := .high
  dstate := .unconfigured
  wmode := none
  rref := none
  rnom := none
  phase := .idle
  argR := none
  argN := none
  argLen := 0
  inbox := []
  answers := []
  draws := 0
  trace := []
  responses := []

end Sys2Proof.Machine
end

