-- ==== Sys2Proof/Machine/Operands.lean ====
section
/-! DEFINITION. The operand forms: the first byte of a frame (spec/40_transport.md R111, R112), the wiring mode and the
configuration byte (spec/41_config.md R141, spec/30_encoding.md R91), and the selection of a resistance operand
(spec/30_encoding.md R92). -/

namespace Sys2Proof.Machine

/-- The first byte of a write transaction: bit 7 set (R83, R111). -/
def writeHeader (addr : Byte) : Byte := addr ||| 0x80#8

/-- The first byte of a read transaction: bit 7 cleared (R83, R112). -/
def readHeader (addr : Byte) : Byte := addr &&& 0x7F#8

/-- The bytes sent by a write transaction, address byte first (R115). -/
def writeBytes (addr value : Byte) : List Byte := [writeHeader addr, value]

/-- The byte sent by a read transaction (R118). -/
def readBytes (addr : Byte) : List Byte := [readHeader addr]

/-- The 8-bit address operand of a frame's 7 address bits (R83: bit 7 of the operand never reaches the wire). -/
def frameAddr (a : BitVec 7) : Byte := a.setWidth 8

/-- The wiring mode a mode field names; `0b11` names none (R91). -/
def wmodeOfField (mode : BitVec 2) : Option WMode :=
  if mode = 0b00#2 then some .w2
  else if mode = 0b01#2 then some .w3
  else if mode = 0b10#2 then some .w4
  else none

/-- The address of the configuration register (R7, R29). -/
def configAddr : Byte := 0x00#8

/-- The address of the most significant RTD byte (R7, R30). -/
def rtdAddr : Byte := 0x01#8

/-- The number of bytes of a raw read (R7). -/
def rtdLength : Nat := 2

/-- The configuration byte of a wiring mode (R141; 90_conflicts C1 and C2 decide 0xD2 for 3-wire). -/
def cfg : WMode → Byte
  | .w2 => 0xC2#8 &&& ~~~0x10#8
  | .w3 => 0xC2#8 ||| 0x10#8
  | .w4 => 0xC2#8 &&& ~~~0x10#8

/-- Bit 7 of the configuration byte: bias voltage enable (R29). -/
def cfgVbias (b : Byte) : Bool := b.getLsbD 7

/-- Bit 6 of the configuration byte: 1 = automatic conversion (R29). -/
def cfgAutomatic (b : Byte) : Bool := b.getLsbD 6

/-- Bit 4 of the configuration byte: 3-wire select (R29). -/
def cfgThreeWire (b : Byte) : Bool := b.getLsbD 4

/-- The location of the slave's register space that byte `i` of an access to an address operand is taken to name: the operand's
low 7 bits, counted up (R51, R55). It only names registers; past `0x7F` the spec names none (U7). -/
def slaveLocation (addr : Byte) (i : Nat) : Nat := (readHeader addr).toNat + i

/-- The default reference resistance of `INIT`, ohms (R6). -/
def rrefDefault : Rat := 430

/-- The default nominal resistance of `INIT`, ohms (R6). -/
def rnomDefault : Rat := 100

/-- A resistance operand in its domain: `some q` with `q > 0` (R92, R144, D12). -/
def positive (o : Option Rat) : Option Rat :=
  match o with
  | some q => if 0 < q then some q else none
  | none => none

/-- The operand a flag selects: the side operand when the flag is 1, else the other source (R92, R143, R168). -/
def selected (flag : Bool) (arg other : Option Rat) : Option Rat := if flag then arg else other

/-- An override operand whose flag is 1 is outside its domain (R168). -/
def overrideBad (flag : Bool) (arg : Option Rat) : Bool := flag && (positive arg).isNone

end Sys2Proof.Machine
end

