-- ==== Sys2Proof/Machine/Ops.lean ====
section
/-! DEFINITION. The named operations over the state: the three bus primitives (spec/00_scope.md R15), the two transactions
`MemWrite` and `MemRead` (spec/40_transport.md R115, R118), the response and the error (spec/60_exceptions.md R201), and the
block's reset (spec/70_reset_and_hazards.md R230 to R233). -/

namespace Sys2Proof.Machine

/-- Append one event to the bus trace (R16). -/
def State.logEvent (s : State) (e : BusEvent) : State := { s with trace := s.trace ++ [e] }

/-- Move `PHASE` (R27). -/
def State.setPhase (s : State) (p : Phase) : State := { s with phase := p }

/-- `CsSet(level)` (R15): drive the line, record the event; asserting starts a transaction and deasserting ends it (R27). It never
fails (D16, log 15). -/
def State.csSet (s : State) (level : Level) : State :=
  match level with
  | .low => { s with cs := .low, phase := .selected, trace := s.trace ++ [.csLow] }
  | .high => { s with cs := .high, phase := .idle, trace := s.trace ++ [.csHigh] }

/-- The answer the `k`-th coming serial call will get (`k` from 0): the one lined up, or else a free draw (R113, R58; log 2). -/
def State.answerAt (s : State) (k : Nat) : SpiAnswer :=
  match s.answers[k]? with
  | some a => a
  | none => Config.freeAnswer (s.draws + k)

/-- One serial call has taken its answer. -/
def State.drawn (s : State) : State := { s with answers := s.answers.tail, draws := s.draws + 1 }

/-- What a call of a serial primitive does: returns `ok`, returns `fail`, or never returns (R123). -/
inductive Call (α : Type) where
  | ok (a : α)
  | fail
  | hang
  deriving DecidableEq, Repr

/-- `SpiTx(bytes)` (R15, R113): on failure some leading part of the bytes was shifted out; a call that never returns leaves no
event. -/
def spiTx (bytes : List Byte) (s : State) : Call Unit × State :=
  match s.answerAt 0 with
  | .ok _ => (.ok (), s.drawn.logEvent (.tx bytes))
  | .fail sent => (.fail, s.drawn.logEvent (.txFail (bytes.take sent)))
  | .hang => (.hang, s.drawn)

/-- The `n` bytes the slave returns in serial call `draw`, of which `given` names the first ones and the rest are free
(R58, U7). -/
def rxBytes (n : Nat) (given : List Byte) (draw : Nat) : List Byte :=
  (List.range n).map fun i =>
    match given[i]? with
    | some b => b
    | none => Config.slaveByte draw i

/-- `SpiRx(n)` (R15, R113): on success exactly `n` bytes. -/
def spiRx (n : Nat) (s : State) : Call (List Byte) × State :=
  match s.answerAt 0 with
  | .ok given => (.ok (rxBytes n given s.draws), s.drawn.logEvent (.rx (rxBytes n given s.draws)))
  | .fail _ => (.fail, s.drawn.logEvent .rxFail)
  | .hang => (.hang, s.drawn)

/-- How a transaction ends: it returns a value, it raises an error (R15), or a serial call in it never returns (R123). -/
inductive Done (α : Type) where
  | ret (a : α)
  | raise (e : Status)
  | hang
  deriving DecidableEq, Repr

/-- The entry condition of a transaction: `CS = 1` and `PHASE = IDLE` (R122). -/
def State.busIdle (s : State) : Bool := decide (s.cs = .high) && decide (s.phase = .idle)

/-- `MemWrite(addr, 1, value)` from its entry condition (R115). -/
def memWrite (addr value : Byte) (s : State) : Done Unit × State :=
  match spiTx (writeBytes addr value) (s.csSet .low) with
  | (.ok _, t) => (.ret (), (t.setPhase .sent).csSet .high)
  | (.fail, t) => (.raise .eBus, t.csSet .high)
  | (.hang, t) => (.hang, t)

/-- The receiving half of `MemRead`, after its address byte was sent (R118). -/
def memReceive (n : Nat) (s : State) : Done (List Byte) × State :=
  match spiRx n s with
  | (.ok bs, t) => (.ret bs, (t.setPhase .received).csSet .high)
  | (.fail, t) => (.raise .eBus, t.csSet .high)
  | (.hang, t) => (.hang, t)

/-- `MemRead(addr, n)` from its entry condition (R117, R118): the length is checked before any bus event. -/
def memRead (addr : Byte) (n : Nat) (s : State) : Done (List Byte) × State :=
  if n < 1 then (.raise .eLength, s)
  else
    match spiTx (readBytes addr) (s.csSet .low) with
    | (.ok _, t) => memReceive n (t.setPhase .sent)
    | (.fail, t) => (.raise .eBus, t.csSet .high)
    | (.hang, t) => (.hang, t)

/-- `respond (status, payload)` (R95). -/
def State.respond (s : State) (status : Status) (payload : Payload) : State :=
  { s with responses := s.responses ++ [{ status := status, payload := payload }] }

/-- TAKING AN ERROR, in place of an exception's entry (R201): nothing is saved, no mode changes, the command ends and its response
carries the status and no payload. There is no return from an error (R203): the next command is taken by the ordinary rules. -/
def State.raise (s : State) (e : Status) : State := s.respond e .none

/-- The end of a command over its transaction: on success `commit` writes the state the command writes and the response is `OK` with
the payload; on an error the response carries it; a transaction that never ends gives no response (R95, R190, R123). -/
def finish {α : Type} (payload : α → Payload) (commit : State → State) (r : Done α × State) : State :=
  match r with
  | (.ret a, t) => (commit t).respond .ok (payload a)
  | (.raise e, t) => t.raise e
  | (.hang, t) => t

/-- A command whose last action is one write transaction. A transaction that does not start from idle chip-select is refused
(R122, D17). -/
def writeCommand (addr value : Byte) (commit : State → State) (s : State) : Host.Outcome State Fault Refusal :=
  if s.busIdle then .next (finish (fun _ => .none) commit (memWrite addr value s)) else .refused .transactionNotIdle

/-- A command whose last action is one read transaction. The length check comes before the entry condition (R117). -/
def readCommand (addr : Byte) (n : Nat) (payload : List Byte → Payload) (s : State) :
    Host.Outcome State Fault Refusal :=
  if n < 1 || s.busIdle then .next (finish payload (fun t => t) (memRead addr n s)) else .refused .transactionNotIdle

/-- THE RESET of the block, from any state (R230 to R233): the state of R231; inside a transaction it drives chip-select high, which
the bus sees, and abandons the command without a response. It sends nothing to the slave. The record of what the bus and the
response port have shown stays (log 8), as do the coming inputs. -/
def State.blockReset (s : State) : State :=
  { s with
    cs := .high
    phase := .idle
    dstate := .unconfigured
    wmode := none
    rref := none
    rnom := none
    argR := none
    argN := none
    argLen := 0
    trace := if s.phase = .idle then s.trace else s.trace ++ [.csHigh] }

end Sys2Proof.Machine
end

