-- ==== Sys2Proof/Machine/Configure.lean ====
section
/-! DEFINITION. The meanings of `INIT` and `DEINIT` (spec/41_config.md). -/

namespace Sys2Proof.Machine

/-- What a successful `INIT` leaves in the Device Handle (R145). -/
def State.configure (s : State) (m : WMode) (R N : Rat) : State :=
  { s with wmode := some m, rref := some R, rnom := some N, dstate := .configured }

/-- `INIT mode, UR, UN` (R143 to R148): the checks in their order, then the one write of the configuration byte, then the state. -/
def execInit (mode : BitVec 2) (ur un : Bool) (s : State) : Host.Outcome State Fault Refusal :=
  if s.dstate = .configured then .next (s.raise .eState)
  else
    match wmodeOfField mode with
    | none => .next (s.raise .eParam)
    | some m =>
      match positive (selected ur s.argR (some rrefDefault)) with
      | none => .next (s.raise .eParam)
      | some R =>
        match positive (selected un s.argN (some rnomDefault)) with
        | none => .next (s.raise .eParam)
        | some N => writeCommand configAddr (cfg m) (fun t => t.configure m R N) s

/-- The end of the Device Handle (R149). -/
def State.unconfigure (s : State) : State :=
  { s with dstate := .unconfigured, wmode := none, rref := none, rnom := none }

/-- `DEINIT` (R149): no bus event, always `OK`. -/
def execDeinit (s : State) : Host.Outcome State Fault Refusal :=
  .next (s.unconfigure.respond .ok .none)

end Sys2Proof.Machine
end

