-- ==== Sys2Proof/Machine/Convert.lean ====
section
/-! DEFINITION. The arithmetic of the conversion pipeline (spec/42_conversion.md): two bytes to a raw code, raw code to
resistance, resistance to temperature, the last two over exact rationals (R170); and what a finite realisation of the last two may
return (R171, R172). The block's response carries the exact values (R171: "A model built from this spec computes `x` itself"). -/

namespace Sys2Proof.Machine

/-- The big-endian pair `w16` of two bytes in transmission order (R53, R161). -/
def rtdPair (b0 b1 : Byte) : BitVec 16 := (b0.setWidth 16 <<< 8) ||| b1.setWidth 16

/-- The raw code: the pair shifted right by one bit, which drops the fault flag (R161, R163). -/
def rawCode (b0 b1 : Byte) : BitVec 16 := rtdPair b0 b1 >>> 1

/-- The raw code of the bytes of a raw read. A read of two bytes delivers exactly two (R118, `Laws.rxBytes_length`), so the
other lists never occur. -/
def rawOfBytes (bs : List Byte) : BitVec 16 := rawCode (bs.getD 0 0#8) (bs.getD 1 0#8)

/-- Resistance in ohms of a raw code and a reference resistance (R165). -/
def resistance (r : Nat) (R : Rat) : Rat := (r * R) / 32768

/-- Temperature in degrees Celsius of a resistance and a nominal resistance (R167, R8: 0.00385 = 77/20000). -/
def temperature (rho N : Rat) : Rat := (rho / N - 1) / (77 / 20000)

/-- A finite-format value `y` conforms to the exact value `x`: within 1e-9 relative (R171). -/
abbrev Conforms (x y : Rat) : Prop := |y - x| ≤ |x| / 1000000000

/-- An unsigned fixed-point number (R172). -/
structure FixedPoint where
  mantissa : Nat
  fraction : Nat
  deriving DecidableEq, Repr

/-- The rational a fixed-point number stands for. -/
def fixedValue (q : FixedPoint) : Rat := q.mantissa / 2 ^ q.fraction

/-- The resistance stage in fixed point: the integer product, read with 15 more fraction bits (R172). -/
def resistanceFixed (r : Nat) (R : FixedPoint) : FixedPoint where
  mantissa := r * R.mantissa
  fraction := R.fraction + 15

/-- The temperature stage of a finite realisation that makes `round num den` of the quotient `num / den`, here
`(rho - N) * 20000 / (77 * N)` (R172). The result must meet the tolerance of R171; where `round` does not, it is no realisation, and
the exact value stands (log 12). -/
def temperatureRounded (round : Rat → Rat → Rat) (rho N : Rat) : Rat :=
  if Conforms (temperature rho N) (round ((rho - N) * 20000) (77 * N)) then round ((rho - N) * 20000) (77 * N)
  else temperature rho N

/-- The temperature stage of a finite realisation, with the open parameter `TEMP_ROUND` (R10, R172, D27, U11). -/
def temperatureRealised (rho N : Rat) : Rat := temperatureRounded Config.tempRound rho N

end Sys2Proof.Machine
end

