-- ==== Sys2Proof/Machine/Conversion.lean ====
section
/-! DEFINITION. The meanings of `RDRAW`, `RDRES` and `RDTMP` (spec/42_conversion.md): checks in the order of R175, then one
transaction `MemRead(0x01, 2)` (R176). -/

namespace Sys2Proof.Machine

/-- The raw read of the family with the payload made of its bytes (R176). -/
def rawRead (payload : List Byte → Payload) (s : State) : Host.Outcome State Fault Refusal :=
  readCommand rtdAddr rtdLength payload s

/-- `RDRAW` (R162). -/
def execRdraw (s : State) : Host.Outcome State Fault Refusal :=
  if s.dstate = .configured then rawRead (fun bs => .raw (rawOfBytes bs)) s else .next (s.raise .eState)

/-- `RDRES UR` (R166, R168). -/
def execRdres (ur : Bool) (s : State) : Host.Outcome State Fault Refusal :=
  if s.dstate = .configured then
    if overrideBad ur s.argR then .next (s.raise .eParam)
    else
      match positive (selected ur s.argR s.rref) with
      | none => .fault .noHandleValue
      | some R => rawRead (fun bs => .value (resistance (rawOfBytes bs).toNat R)) s
  else .next (s.raise .eState)

/-- `RDTMP UR, UN` (R169, R168). -/
def execRdtmp (ur un : Bool) (s : State) : Host.Outcome State Fault Refusal :=
  if s.dstate = .configured then
    if overrideBad ur s.argR then .next (s.raise .eParam)
    else if overrideBad un s.argN then .next (s.raise .eParam)
    else
      match positive (selected ur s.argR s.rref), positive (selected un s.argN s.rnom) with
      | some R, some N =>
        rawRead (fun bs => .value (temperature (resistance (rawOfBytes bs).toNat R) N)) s
      | some _, none => .fault .noHandleValue
      | none, some _ => .fault .noHandleValue
      | none, none => .fault .noHandleValue
  else .next (s.raise .eState)

end Sys2Proof.Machine
end

