-- ==== Sys2Proof/Machine/Transport.lean ====
section
/-! DEFINITION. The meanings of the Bus Transport's commands `XWR`, `XRD` (spec/40_transport.md) and of the two wire frames
(spec/30_encoding.md section 1). None of them reads or writes `DSTATE`, `WMODE`, `RREF`, `RNOM` (R110). -/

namespace Sys2Proof.Machine

/-- `XWR addr, value` (R116). -/
def execXwr (addr value : Byte) (s : State) : Host.Outcome State Fault Refusal :=
  writeCommand addr value (fun t => t) s

/-- `XRD addr, length` (R119). -/
def execXrd (addr : Byte) (length : Nat) (s : State) : Host.Outcome State Fault Refusal :=
  readCommand addr length (fun bs => .bytes bs) s

/-- The write frame as an instruction: the write transaction `MemWrite(a, 1, d)` of its address bits and data byte (R81, R115),
with the response of what it returns or raises (log 5). -/
def execWframe (a : BitVec 7) (d : Byte) (s : State) : Host.Outcome State Fault Refusal :=
  writeCommand (frameAddr a) d (fun t => t) s

/-- The read frame as an instruction: the read transaction `MemRead(a, n)` of its address bits (R82, R118); `n` is not in the frame
(R84) and stands in `argLen` (logs 5, 6). -/
def execRframe (a : BitVec 7) (s : State) : Host.Outcome State Fault Refusal :=
  readCommand (frameAddr a) s.argLen (fun bs => .bytes bs) s

end Sys2Proof.Machine
end

