-- ==== Sys2Proof/Machine/Dispatch.lean ====
section
/-! DEFINITION. One arm per instruction. -/

namespace Sys2Proof.Machine

def exec (i : Instr) (s : State) : Host.Outcome State Fault Refusal :=
  match i with
  | .xwr addr value => Sys2Proof.Machine.execXwr addr value s
  | .xrd addr length => Sys2Proof.Machine.execXrd addr length s
  | .init mode ur un => Sys2Proof.Machine.execInit mode ur un s
  | .rdraw => Sys2Proof.Machine.execRdraw s
  | .rdres ur => Sys2Proof.Machine.execRdres ur s
  | .rdtmp ur un => Sys2Proof.Machine.execRdtmp ur un s
  | .deinit => Sys2Proof.Machine.execDeinit s
  | .wframe a d => Sys2Proof.Machine.execWframe a d s
  | .rframe a => Sys2Proof.Machine.execRframe a s

end Sys2Proof.Machine
end

