-- ==== Sys2Proof/WellFormed.lean ====
section
/-! DEFINITION. Which instructions have an encoding: the one operand that is wider in `Instr` than in its field is the length
of `XRD` (spec/30_encoding.md R90). Values that are encodable and that the command then rejects (length 0, mode 0b11, R94) are
well formed. -/

namespace Sys2Proof

/-- The instruction has an encoding: the length of `XRD` fits its 8-bit field (R90, D13). -/
def Instr.wellFormed : Instr → Bool
  | .xrd _ length => decide (length ≤ Config.maxReadLen)
  | .xwr _ _ | .init _ _ _ | .rdraw | .rdres _ | .rdtmp _ _ | .deinit | .wframe _ _ | .rframe _ => true

end Sys2Proof
end

