-- ==== Sys2Proof/Decode.lean ====
section
/-! DEFINITION. Decoding and encoding of command words and of wire frames (spec/30_encoding.md). The decoder is total on every
command word and on every byte list, rejects by name, and looks at no operand port and no state (R97). -/

namespace Sys2Proof

/-- Why a code is no instruction (R93). A command port answers each of the first four with `E_ILLEGAL` (R197). -/
inductive IllegalCode where
  /-- `OP` is none of the seven values of R89. -/
  | unknownOp
  /-- The reserved field `C` is not `0x00` (R88). -/
  | reservedC
  /-- Reserved bits of `A` are not 0. -/
  | reservedA
  /-- Reserved bits of `B` are not 0. -/
  | reservedB
  /-- The bytes are neither a whole write frame nor the header of a read frame (R81, R82). -/
  | notAFrame
  deriving DecidableEq, Repr

/-- `OP = w[31:24]` (R88). -/
def opField (w : CommandWord) : Byte := w.extractLsb' 24 8

/-- `A = w[23:16]` (R88). -/
def aField (w : CommandWord) : Byte := w.extractLsb' 16 8

/-- `B = w[15:8]` (R88). -/
def bField (w : CommandWord) : Byte := w.extractLsb' 8 8

/-- `C = w[7:0]` (R88). -/
def cField (w : CommandWord) : Byte := w.extractLsb' 0 8

/-- The wiring-mode field, bits 1..0 of `A`, `w[17:16]` (R91). -/
def modeField (w : CommandWord) : BitVec 2 := w.extractLsb' 16 2

/-- `UR = w[8]` (R92). -/
def urBit (w : CommandWord) : Bool := w.getLsbD 8

/-- `UN = w[9]` (R92). -/
def unBit (w : CommandWord) : Bool := w.getLsbD 9

/-- Bits 7..2 of an operand byte, the reserved part of `INIT`'s `A` and of `B` where it holds both flags (R89). -/
def above2 (b : Byte) : BitVec 6 := b.extractLsb' 2 6

/-- Bits 7..1 of an operand byte, the reserved part of `RDRES`'s `B` (R89). -/
def above1 (b : Byte) : BitVec 7 := b.extractLsb' 1 7

/-- Accept `i` where the reserved parts of `A` and `B` are 0 (R93). -/
def reservedZero (aOk bOk : Bool) (i : Instr) : Except IllegalCode Instr :=
  if aOk then (if bOk then .ok i else .error .reservedB) else .error .reservedA

/-- The commands that have `C = 0` (R89, R90, R91, R92). -/
def decodeOp (w : CommandWord) : Except IllegalCode Instr :=
  let a := aField w
  let b := bField w
  if opField w = 0x01#8 then .ok (.xwr a b)
  else if opField w = 0x02#8 then .ok (.xrd a b.toNat)
  else if opField w = 0x10#8 then
    reservedZero (above2 a == 0#6) (above2 b == 0#6) (.init (modeField w) (urBit w) (unBit w))
  else if opField w = 0x11#8 then reservedZero (a == 0#8) (b == 0#8) .rdraw
  else if opField w = 0x12#8 then reservedZero (a == 0#8) (above1 b == 0#7) (.rdres (urBit w))
  else if opField w = 0x13#8 then reservedZero (a == 0#8) (above2 b == 0#6) (.rdtmp (urBit w) (unBit w))
  else if opField w = 0x1F#8 then reservedZero (a == 0#8) (b == 0#8) .deinit
  else .error .unknownOp

/-- `decode` of R97, by the fields of R88 and R89; every word with `C ≠ 0` is illegal (R93). -/
def decodeWord (w : CommandWord) : Except IllegalCode Instr :=
  if cField w = 0#8 then decodeOp w else .error .reservedC

/-- Decoding of the bytes the block sends in one frame (R80 to R83): bit 7 of the first byte is the flag, bits 6..0 are the
address; a write frame is the header and one data byte, a read frame sends its header alone. -/
def decodeFrame (sent : List Byte) : Except IllegalCode Instr :=
  match sent with
  | [h, d] => if h.getLsbD 7 then .ok (.wframe (h.extractLsb' 0 7) d) else .error .notAFrame
  | [h] => if h.getLsbD 7 then .error .notAFrame else .ok (.rframe (h.extractLsb' 0 7))
  | [] => .error .notAFrame
  | _ :: _ :: _ :: _ => .error .notAFrame

/-- Decoding of a code, total and rejecting by name. -/
def decode : Code → Except IllegalCode Instr
  | .command w => decodeWord w
  | .frame sent => decodeFrame sent

/-- A command word from its four byte fields (R88). -/
def commandWord (op a b c : Byte) : CommandWord := op ++ a ++ b ++ c

/-- The operand byte `B` of the flags `UR` (bit 0) and `UN` (bit 1) (R89, R92). -/
def flagByte (ur un : Bool) : Byte := 0#6 ++ BitVec.ofBool un ++ BitVec.ofBool ur

/-- The operand byte `A` of `INIT`: the wiring-mode field in bits 1..0 (R89, R91). -/
def modeByte (mode : BitVec 2) : Byte := 0#6 ++ mode

/-- The words of an instruction, from the encoding tables (R81, R82, R89, R96). -/
def encode : Instr → Code
  | .xwr addr value => .command (commandWord 0x01#8 addr value 0#8)
  | .xrd addr length => .command (commandWord 0x02#8 addr (BitVec.ofNat 8 length) 0#8)
  | .init mode ur un => .command (commandWord 0x10#8 (modeByte mode) (flagByte ur un) 0#8)
  | .rdraw => .command (commandWord 0x11#8 0#8 0#8 0#8)
  | .rdres ur => .command (commandWord 0x12#8 0#8 (flagByte ur false) 0#8)
  | .rdtmp ur un => .command (commandWord 0x13#8 0#8 (flagByte ur un) 0#8)
  | .deinit => .command (commandWord 0x1F#8 0#8 0#8 0#8)
  | .wframe a d => .frame [1#1 ++ a, d]
  | .rframe a => .frame [0#1 ++ a]

/-- The code of an instruction whose bits are `w`, numbered as spec/opcode_table.json numbers them: a frame row of 16 bits is
one word in transmission order, its high byte first on the wire (R81), a frame row of 8 bits is the header (R82), and every
other width is a 32-bit command word (R88). -/
def codeOfTableWord (nbits w : Nat) : Code :=
  if nbits = 8 then .frame [BitVec.ofNat 8 w]
  else if nbits = 16 then .frame [BitVec.ofNat 8 (w / 256), BitVec.ofNat 8 w]
  else .command (BitVec.ofNat 32 w)

/-- What the decoder reads from an instruction whose bits are `w`, numbered as the opcode table numbers them (log 7). -/
def decodeTableWord (nbits w : Nat) : Option Instr :=
  match decode (codeOfTableWord nbits w) with
  | .ok i => some i
  | .error _ => none

end Sys2Proof
end

