-- ==== Sys2Proof/Machine/Fetch.lean ====
section
/-! DEFINITION. Taking the host's next event: the block has no program counter and fetches nothing (spec/10_state.md R21); the
host presents commands one at a time, and the block accepts one only when `PHASE` is IDLE (R27). -/

namespace Sys2Proof.Machine

/-- What the host's next event asks of the block, with the state at acceptance. -/
inductive Fetched where
  /-- Nothing to do: no event, or a command that is not accepted because a transaction has not ended (R27, R123). -/
  | wait
  /-- The block is reset (R230). -/
  | reset (s : State)
  /-- An instruction is accepted. -/
  | run (i : Instr) (s : State)
  /-- A command word outside the opcode map is accepted (R93). -/
  | illegal (s : State)
  /-- The event has no meaning. -/
  | stop (r : Refusal)
  deriving DecidableEq, Repr

/-- The state when a command is accepted: its side operands stand on the command port, and the event is taken (R88). -/
def State.acceptCommand (s : State) (rest : List HostEvent) (argR argN : Option Rat) : State :=
  { s with inbox := rest, argR := argR, argN := argN }

/-- The state when a bare frame is accepted (log 5). -/
def State.acceptFrame (s : State) (rest : List HostEvent) (len : Nat) : State :=
  { s with inbox := rest, argLen := len }

/-- A command word accepted by an idle block (R97, R197). -/
def fetchCommand (w : CommandWord) (s : State) : Fetched :=
  match decodeWord w with
  | .ok i => .run i s
  | .error _ => .illegal s

/-- A bare frame accepted by an idle block (log 5). -/
def fetchFrame (sent : List Byte) (s : State) : Fetched :=
  match decodeFrame sent with
  | .ok i => .run i s
  | .error _ => .stop .notAFrame

/-- An idle block takes the first event. -/
def fetchIdle (s : State) : Fetched :=
  match s.inbox with
  | [] => .wait
  | .reset :: rest => .reset { s with inbox := rest }
  | .command w argR argN :: rest => fetchCommand w (s.acceptCommand rest argR argN)
  | .frame sent len :: rest => fetchFrame sent (s.acceptFrame rest len)

/-- A block inside a transaction that has not ended accepts no command; a reset takes effect at once, before the commands that
wait (R27, R232; log 8). -/
def fetchBusy (s : State) : Fetched :=
  if .reset ∈ s.inbox then .reset { s with inbox := s.inbox.erase .reset } else .wait

/-- The host's next event. -/
def fetch (s : State) : Fetched := if s.phase = .idle then fetchIdle s else fetchBusy s

/-- The host's event that presents a code: a command word with the side operands already on the port, or a bare frame with a
length of at least one byte (logs 1, 6). -/
def State.eventOf (s : State) : Code → HostEvent
  | .command w => .command w s.argR s.argN
  | .frame sent => .frame sent (max 1 s.argLen)

end Sys2Proof.Machine
end

