-- ==== Sys2Proof/Machine/Step.lean ====
section
/-! DEFINITION. One step: the block takes the host's next event and runs it to its end (spec/00_scope.md R18 item 1, R27: a model
may treat each command as one atomic step). -/

namespace Sys2Proof.Machine

/-- One step. With no event to take the block stays as it is (R234); a reset gives the state of R231; an accepted command is run;
a command word outside the map is answered `E_ILLEGAL` (R197). -/
def step (s : State) : Host.Outcome State Fault Refusal :=
  match fetch s with
  | .wait => .next s
  | .reset t => .next t.blockReset
  | .run i t => exec i t
  | .illegal t => .next (t.raise .eIllegal)
  | .stop r => .refused r

/-- The state in which the host's next event presents the instruction whose bits are `w`, numbered as the opcode table numbers
them (log 1). -/
def State.withFetchWord (s : State) (nbits w : Nat) : State :=
  { s with inbox := s.eventOf (Sys2Proof.codeOfTableWord nbits w) :: s.inbox }

end Sys2Proof.Machine
end

