-- ==== Sys2Proof/Machine/Flags.lean ====
section
/-! DEFINITION. The block has no status flags, no condition codes and no predicates, and no command sets a flag
(spec/10_state.md R28). The one flag-like bit of its data path is the slave's fault flag (R163), which is discarded; a status
code is an output of one command (spec/60_exceptions.md R191), not a flag. -/

namespace Sys2Proof.Machine

/-- The slave's fault flag: bit 0 of the 16-bit RTD pair, bit 0 of its second byte (R30, R163). No meaning reads it. -/
def faultFlag (b1 : Byte) : Bool := b1.getLsbD 0

/-- The 8-bit number of a status (R191). -/
def statusCode : Status → Byte
  | .ok => 0x00#8
  | .eIllegal => 0x01#8
  | .eState => 0x02#8
  | .eParam => 0x03#8
  | .eLength => 0x04#8
  | .eBus => 0x05#8

end Sys2Proof.Machine
end

