-- ==== Sys2Proof/Safety.lean ====
section
/-! DEFINITION. What counts as a safe run, in the terms the claims use: the chip-select bracket as an automaton over the bus trace
(spec/40_transport.md R114, R120), the Device Handle's consistency (spec/10_state.md R23 to R26), the statuses a command may report
(spec/60_exceptions.md R198), and which commands reach their transaction (spec/60_exceptions.md R199). -/

namespace Sys2Proof.Machine

/-- Where a bus trace stands in a transaction: outside one, asserted, after a write frame's bytes, after a read frame's header,
after the bytes received, or after a failed serial call. -/
inductive Bracket where
  | outside
  | asserted
  | wroteFrame
  | sentHeader
  | received
  | failed
  deriving DecidableEq, Repr

/-- The bracket state after the bytes of one `SpiTx` in an asserted transaction: they are a whole write frame or a read frame's
header (R80 to R82). -/
def bracketAfterTx (sent : List Byte) : Option Bracket :=
  match decodeFrame sent with
  | .ok (.wframe _ _) => some .wroteFrame
  | .ok (.rframe _) => some .sentHeader
  | .ok (.xwr _ _) | .ok (.xrd _ _) | .ok (.init _ _ _) | .ok .rdraw | .ok (.rdres _) | .ok (.rdtmp _ _) | .ok .deinit => none
  | .error _ => none

/-- The events a transaction may show, in order: assert, send one frame, receive only after a read header, nothing after a failure
but the release (R113, R114, R120). A release before anything was sent is a reset (R232). -/
def bracketStep (b : Bracket) (e : BusEvent) : Option Bracket :=
  match b, e with
  | .outside, .csLow => some .asserted
  | .asserted, .tx sent => bracketAfterTx sent
  | .asserted, .txFail _ => some .failed
  | .sentHeader, .rx (_ :: _) => some .received
  | .sentHeader, .rxFail => some .failed
  | .asserted, .csHigh => some .outside
  | .wroteFrame, .csHigh => some .outside
  | .sentHeader, .csHigh => some .outside
  | .received, .csHigh => some .outside
  | .failed, .csHigh => some .outside
  | _, _ => none

/-- Follow the bracket over events; `none` once an event stands where it may not. -/
def bracketFrom (b : Option Bracket) (events : List BusEvent) : Option Bracket :=
  match events with
  | [] => b
  | e :: rest => bracketFrom (b.bind fun x => bracketStep x e) rest

/-- The bracket a phase stands for between two steps. A write's SENT never outlasts its command; a read's does when the slave's
bytes never arrive. -/
def Phase.bracket : Phase → Bracket
  | .idle => .outside
  | .selected => .asserted
  | .sent => .sentHeader
  | .received => .received

/-- Chip-select is high exactly while no transaction is in progress (R22). -/
def State.lineOk (s : State) : Bool := decide (s.cs = .high ↔ s.phase = .idle)

/-- The Device Handle is whole: configured with a mode and two positive resistances, or unconfigured with no value in any of the three
(R23 to R26, R149, R231). -/
def State.handleOk (s : State) : Bool :=
  match s.dstate with
  | .configured => s.wmode.isSome && (positive s.rref).isSome && (positive s.rnom).isSome
  | .unconfigured => s.wmode.isNone && s.rref.isNone && s.rnom.isNone

/-- The bus trace is a row of whole brackets, and an open one where the phase says so. -/
def State.traceOk (s : State) : Bool := decide (bracketFrom (some .outside) s.trace = some s.phase.bracket)

/-- A response with an error carries no payload (R95, R201). -/
def Response.okOrEmpty (r : Response) : Bool := decide (r.status = .ok) || decide (r.payload = .none)

/-- The invariant of the machine. -/
def State.Inv (s : State) : Prop :=
  s.lineOk = true ∧ s.handleOk = true ∧ s.traceOk = true ∧ s.responses.all Response.okOrEmpty = true

/-- Which status a command may report (the table of R198; the frames report what their transaction may). -/
def mayReport : Instr → Status → Bool
  | .xwr _ _, e | .wframe _ _, e => decide (e = .ok) || decide (e = .eBus)
  | .xrd _ _, e | .rframe _, e => decide (e = .ok) || decide (e = .eLength) || decide (e = .eBus)
  | .init _ _ _, e => decide (e = .ok) || decide (e = .eState) || decide (e = .eParam) || decide (e = .eBus)
  | .deinit, e => decide (e = .ok)
  | .rdraw, e => decide (e = .ok) || decide (e = .eState) || decide (e = .eBus)
  | .rdres _, e | .rdtmp _ _, e =>
    decide (e = .ok) || decide (e = .eState) || decide (e = .eParam) || decide (e = .eBus)

/-- The state a finished command leaves when it made `calls` serial calls, showed `events` on the bus and gave one response: every
other field as before. -/
def State.finished (s : State) (calls : Nat) (events : List BusEvent) (status : Status) (payload : Payload) : State :=
  { s with
    answers := s.answers.drop calls
    draws := s.draws + calls
    trace := s.trace ++ events
    responses := s.responses ++ [{ status := status, payload := payload }] }

/-- The state of a command whose last serial call never returns: chip-select low, no response (R123). -/
def State.stuckIn (s : State) (phase : Phase) (calls : Nat) (events : List BusEvent) : State :=
  { s with
    cs := .low
    phase := phase
    answers := s.answers.drop calls
    draws := s.draws + calls
    trace := s.trace ++ events }

/-- The payload a command gives with `OK` (the table of R95); `n` is the length of a bare read frame. -/
def payloadFits (i : Instr) (n : Nat) : Payload → Bool
  | .none =>
    match i with
    | .xwr _ _ | .init _ _ _ | .deinit | .wframe _ _ => true
    | .xrd _ _ | .rdraw | .rdres _ | .rdtmp _ _ | .rframe _ => false
  | .bytes bs =>
    match i with
    | .xrd _ length => decide (bs.length = length)
    | .rframe _ => decide (bs.length = n)
    | .xwr _ _ | .init _ _ _ | .deinit | .wframe _ _ | .rdraw | .rdres _ | .rdtmp _ _ => false
  | .raw code =>
    match i with
    | .rdraw => decide (code.toNat ≤ 32767)
    | .xwr _ _ | .xrd _ _ | .init _ _ _ | .deinit | .wframe _ _ | .rdres _ | .rdtmp _ _ | .rframe _ => false
  | .value _ =>
    match i with
    | .rdres _ | .rdtmp _ _ => true
    | .xwr _ _ | .xrd _ _ | .init _ _ _ | .deinit | .wframe _ _ | .rdraw | .rframe _ => false

/-- The instructions that never write the Device Handle: all but `INIT` and `DEINIT` (R24 to R26, R110, R168). -/
def leavesHandle : Instr → Bool
  | .init _ _ _ | .deinit => false
  | .xwr _ _ | .xrd _ _ | .rdraw | .rdres _ | .rdtmp _ _ | .wframe _ _ | .rframe _ => true

/-- A selected resistance is in its domain: the side operand where the flag is 1, else the element of the handle (R168, U2). -/
def resistanceReady (flag : Bool) (arg held : Option Rat) : Bool := (positive (selected flag arg held)).isSome

/-- The instruction passes every check that comes before `CsSet(0)`, so that its transaction is next (R199: `E_STATE`, `E_PARAM` and
`E_LENGTH` are decided before it). `DEINIT` has no transaction (R66). -/
def startsTransaction (i : Instr) (s : State) : Bool :=
  match i with
  | .xwr _ _ | .wframe _ _ => true
  | .xrd _ length => decide (1 ≤ length)
  | .rframe _ => decide (1 ≤ s.argLen)
  | .init mode ur un =>
    decide (s.dstate = .unconfigured) && decide (mode ≠ 0b11#2) && resistanceReady ur s.argR (some rrefDefault) &&
      resistanceReady un s.argN (some rnomDefault)
  | .rdraw => decide (s.dstate = .configured)
  | .rdres ur => decide (s.dstate = .configured) && resistanceReady ur s.argR s.rref
  | .rdtmp ur un =>
    decide (s.dstate = .configured) && resistanceReady ur s.argR s.rref && resistanceReady un s.argN s.rnom
  | .deinit => false

/-- The first byte of the read transaction an instruction runs, `none` where it runs none (R66, R112). -/
def readHeaderOf : Instr → Option Byte
  | .xrd addr _ => some (addr &&& 0x7F#8)
  | .rframe a => some (0#1 ++ a)
  | .rdraw | .rdres _ | .rdtmp _ _ => some 0x01#8
  | .xwr _ _ | .wframe _ _ | .init _ _ _ | .deinit => none

/-- One of the serial calls made between two states never returned (R123). -/
def CallHung (s t : State) : Prop := ∃ k, s.draws + k < t.draws ∧ s.answerAt k = .hang

/-- The same outcome with its next state, if it has one, changed by `f`. -/
def mapNext (f : State → State) : Host.Outcome State Fault Refusal → Host.Outcome State Fault Refusal
  | .next t => .next (f t)
  | .fault r => .fault r
  | .refused r => .refused r

/-- A side operand outside its domain: absent, or not greater than 0 (R92, R196). -/
def Invalid (o : Option Rat) : Prop := ∀ q, o = some q → q ≤ 0

end Sys2Proof.Machine
end

