-- ==== Sys2Proof/Certificates/Slice0/Obligations.lean ====
section
/-! DEFINITION. The statements about the PMX engine, each a numbered rule of spec/ or what follows from some of them. Every one is over
all states and operands that meet its hypotheses; the outcome of a serial call and the slave's bytes are whatever
`State.answerAt` gives, lined up or free. -/

open Sys2Proof Sys2Proof.Machine

/-! ### Reset -/

/-- R231: the values of the spec's state after reset. -/
def Obligations.ResetState : Prop :=
  State.reset.cs = .high ∧ State.reset.phase = .idle ∧ State.reset.dstate = .unconfigured ∧ State.reset.wmode = none ∧
    State.reset.rref = none ∧ State.reset.rnom = none ∧ State.reset.trace = []

/-- R230, R231: the block's reset gives the one reset state, whatever the state was. -/
def Obligations.ResetGivesOneState : Prop :=
  ∀ s : State, s.blockReset.cs = State.reset.cs ∧ s.blockReset.phase = State.reset.phase ∧
    s.blockReset.dstate = State.reset.dstate ∧ s.blockReset.wmode = State.reset.wmode ∧
    s.blockReset.rref = State.reset.rref ∧ s.blockReset.rnom = State.reset.rnom

/-- A reset inside a transaction (R232) drives chip-select high, abandons the command without a response and gives the reset state.
That it overtakes the commands that wait, which stay, and that the old bus trace stays with `CS_HIGH` appended, as the old responses
do, is the model's reading and choice (log 8). -/
def Obligations.ResetInsideTransaction : Prop :=
  ∀ s : State, s.phase ≠ .idle → .reset ∈ s.inbox →
    ∃ t, step s = .next t ∧ t.cs = .high ∧ t.phase = .idle ∧ t.dstate = .unconfigured ∧ t.wmode = none ∧ t.rref = none ∧
      t.rnom = none ∧ t.trace = s.trace ++ [.csHigh] ∧ t.responses = s.responses ∧ t.inbox = s.inbox.erase .reset

/-- R233 with log 8: a reset of an idle block shows the bus nothing, gives no response, and what the bus showed before stays on
record. -/
def Obligations.ResetOfIdleBlock : Prop :=
  ∀ (s : State) (rest : List HostEvent), s.phase = .idle → s.inbox = .reset :: rest →
    ∃ t, step s = .next t ∧ t.cs = .high ∧ t.phase = .idle ∧ t.dstate = .unconfigured ∧ t.wmode = none ∧ t.rref = none ∧
      t.rnom = none ∧ t.trace = s.trace ∧ t.responses = s.responses ∧ t.inbox = rest

/-! ### The invariant -/

/-- The invariant holds at reset. -/
def Obligations.ResetMeetsInvariant : Prop := State.reset.Inv

/-- Every step from a state that meets the invariant gives a state that meets it: chip-select is high exactly when no transaction is
in progress (R22), the Device Handle is whole (R23 to R26), the bus trace is a row of well-formed brackets (R114, R120), and no
response with an error carries a payload (R95). -/
def Obligations.StepKeepsInvariant : Prop :=
  ∀ s t : State, s.Inv → step s = .next t → t.Inv

/-- From a state that meets the invariant the machine never stops: every step answers a next state, for every command word, every
outcome of the serial calls and every answer of the slave. Only a bare frame that is no frame is excluded. -/
def Obligations.StepNeverStops : Prop :=
  ∀ s : State, s.Inv →
    (∀ sent len rest, s.inbox = .frame sent len :: rest → ∃ i, decodeFrame sent = .ok i) →
    ∃ t, step s = .next t

/-! ### Encoding -/

/-- Decoding the encoding of a well-formed instruction gives it back, every operand at every value. -/
def Obligations.DecodeOfEncode : Prop :=
  ∀ i : Instr, i.wellFormed = true → decode (encode i) = .ok i

/-- Each code has one meaning: what decodes is well formed and encodes to the same code, no bit dropped. -/
def Obligations.EncodeOfDecode : Prop :=
  ∀ (c : Code) (i : Instr), decode c = .ok i → i.wellFormed = true ∧ encode i = c

/-- R89: a word is a command iff it matches that command's row, with the fields the map names, and any other word is illegal. R97,
which the spec derives from R89, is the same table as a decoder. -/
def Obligations.DecodeFollowsTable : Prop :=
  ∀ w : CommandWord,
    (w &&& 0xFF0000FF#32 = 0x01000000#32 → decodeWord w = .ok (.xwr (w.extractLsb' 16 8) (w.extractLsb' 8 8))) ∧
    (w &&& 0xFF0000FF#32 = 0x02000000#32 → decodeWord w = .ok (.xrd (w.extractLsb' 16 8) (w.extractLsb' 8 8).toNat)) ∧
    (w &&& 0xFFFCFCFF#32 = 0x10000000#32 →
      decodeWord w = .ok (.init (w.extractLsb' 16 2) (w.getLsbD 8) (w.getLsbD 9))) ∧
    (w &&& 0xFFFFFFFF#32 = 0x11000000#32 → decodeWord w = .ok .rdraw) ∧
    (w &&& 0xFFFFFEFF#32 = 0x12000000#32 → decodeWord w = .ok (.rdres (w.getLsbD 8))) ∧
    (w &&& 0xFFFFFCFF#32 = 0x13000000#32 → decodeWord w = .ok (.rdtmp (w.getLsbD 8) (w.getLsbD 9))) ∧
    (w &&& 0xFFFFFFFF#32 = 0x1F000000#32 → decodeWord w = .ok .deinit) ∧
    (w &&& 0xFF0000FF#32 ≠ 0x01000000#32 → w &&& 0xFF0000FF#32 ≠ 0x02000000#32 → w &&& 0xFFFCFCFF#32 ≠ 0x10000000#32 →
      w &&& 0xFFFFFFFF#32 ≠ 0x11000000#32 → w &&& 0xFFFFFEFF#32 ≠ 0x12000000#32 → w &&& 0xFFFFFCFF#32 ≠ 0x13000000#32 →
      w &&& 0xFFFFFFFF#32 ≠ 0x1F000000#32 → ∃ e, decodeWord w = .error e)

/-- Words written out from the encodings decode to what they stand for. -/
def Obligations.DecodeSampleWords : Prop :=
  decodeWord 0x0100D200#32 = .ok (.xwr 0x00#8 0xD2#8) ∧ decodeWord 0x027FFF00#32 = .ok (.xrd 0x7F#8 255) ∧
    decodeWord 0x10020100#32 = .ok (.init 0b10#2 true false) ∧ decodeWord 0x13000200#32 = .ok (.rdtmp false true) ∧
    decodeWord 0x1F000000#32 = .ok .deinit ∧ decodeFrame [0x83#8, 0x7F#8] = .ok (.wframe 0x03#7 0x7F#8) ∧
    decodeFrame [0x01#8] = .ok (.rframe 0x01#7)

/-! ### The step -/

/-- When an idle block's next event is a command word that decodes to `i`, the step is `exec i` with that event taken and its side
operands on the port. -/
def Obligations.StepRunsDecodedCommand : Prop :=
  ∀ (s : State) (w : CommandWord) (r n : Option Rat) (rest : List HostEvent) (i : Instr), s.phase = .idle →
    s.inbox = .command w r n :: rest → decodeWord w = .ok i →
    step s = exec i { s with inbox := rest, argR := r, argN := n }

/-- The same for a bare frame, whose length stands on the port (the model's own input, log 5). -/
def Obligations.StepRunsDecodedFrame : Prop :=
  ∀ (s : State) (sent : List Byte) (len : Nat) (rest : List HostEvent) (i : Instr), s.phase = .idle →
    s.inbox = .frame sent len :: rest → decodeFrame sent = .ok i →
    step s = exec i { s with inbox := rest, argLen := len }

/-- The word the host places runs in the very next step, on the state as it was but for the length of a read frame, which is at
least one byte (logs 1, 6). -/
def Obligations.PlacedWordRuns : Prop :=
  ∀ (s : State) (nbits w : Nat) (i : Instr), s.phase = .idle → decodeTableWord nbits w = some i →
    (∀ v, codeOfTableWord nbits w = .command v → step (s.withFetchWord nbits w) = exec i s) ∧
    (∀ sent, codeOfTableWord nbits w = .frame sent →
      step (s.withFetchWord nbits w) = exec i { s with argLen := max 1 s.argLen })

/-- R93, R197: a word outside the map is answered `E_ILLEGAL`, runs no transaction and changes no state. -/
def Obligations.IllegalWordAnswered : Prop :=
  ∀ (s : State) (w : CommandWord) (r n : Option Rat) (rest : List HostEvent) (e : IllegalCode), s.phase = .idle →
    s.inbox = .command w r n :: rest → decodeWord w = .error e →
    step s = .next
      { s with inbox := rest, argR := r, argN := n, responses := s.responses ++ [⟨.eIllegal, .none⟩] }

/-- R234, which the spec derives from R21: with no command an idle block waits: nothing changes. -/
def Obligations.IdleBlockWaits : Prop :=
  ∀ s : State, s.inbox = [] → step s = .next s

/-- R27: inside a transaction that has not ended the block accepts nothing but a reset. -/
def Obligations.BusyBlockAcceptsNothing : Prop :=
  ∀ s : State, s.phase ≠ .idle → .reset ∉ s.inbox → step s = .next s

/-! ### Bus Transport -/

/-- R111, R115, R116: `XWR` sends one write frame in one bracket; a failed transmit leaves some leading part of it and `E_BUS`; bit
7 of the address has no effect; every address and value has its word. -/
def Obligations.XwrWritesOneRegister : Prop :=
  ∀ (s : State) (addr value : Byte), s.cs = .high → s.phase = .idle →
    (∀ bs, s.answerAt 0 = .ok bs →
      exec (.xwr addr value) s = .next (s.finished 1 [.csLow, .tx [addr ||| 0x80#8, value], .csHigh] .ok .none)) ∧
    (∀ k, s.answerAt 0 = .fail k →
      exec (.xwr addr value) s =
        .next (s.finished 1 [.csLow, .txFail ([addr ||| 0x80#8, value].take k), .csHigh] .eBus .none)) ∧
    exec (.xwr (addr ^^^ 0x80#8) value) s = exec (.xwr addr value) s ∧
    decodeWord (0x01#8 ++ addr ++ value ++ 0x00#8) = .ok (.xwr addr value)

/-- R112, R117, R118, R119: `XRD` refuses length 0 before any event, else reads exactly `n` bytes in one bracket and returns them in
transmission order; a failed call gives `E_BUS` and no bytes; bit 7 of the address has no effect; every length up to 255 has its
word. -/
def Obligations.XrdReadsRegisters : Prop :=
  ∀ (s : State) (addr : Byte) (n : Nat),
    (n = 0 → exec (.xrd addr n) s = .next (s.finished 0 [] .eLength .none)) ∧
    (1 ≤ n → s.cs = .high → s.phase = .idle →
      (∀ bs given, s.answerAt 0 = .ok bs → s.answerAt 1 = .ok given →
        ∃ got : List Byte, got.length = n ∧ (given.length = n → got = given) ∧
          exec (.xrd addr n) s =
            .next (s.finished 2 [.csLow, .tx [addr &&& 0x7F#8], .rx got, .csHigh] .ok (.bytes got))) ∧
      (∀ k, s.answerAt 0 = .fail k →
        exec (.xrd addr n) s = .next (s.finished 1 [.csLow, .txFail ([addr &&& 0x7F#8].take k), .csHigh] .eBus .none)) ∧
      (∀ bs k, s.answerAt 0 = .ok bs → s.answerAt 1 = .fail k →
        exec (.xrd addr n) s = .next (s.finished 2 [.csLow, .tx [addr &&& 0x7F#8], .rxFail, .csHigh] .eBus .none))) ∧
    exec (.xrd (addr ^^^ 0x80#8) n) s = exec (.xrd addr n) s ∧
    (n ≤ 255 → decodeWord (0x02#8 ++ addr ++ BitVec.ofNat 8 n ++ 0x00#8) = .ok (.xrd addr n))

/-- The write frame as an instruction is the write transaction of its address bits (log 5). -/
def Obligations.WframeIsWriteTransaction : Prop :=
  ∀ (s : State) (a : BitVec 7) (d : Byte), s.cs = .high → s.phase = .idle →
    (∀ bs, s.answerAt 0 = .ok bs →
      exec (.wframe a d) s = .next (s.finished 1 [.csLow, .tx [1#1 ++ a, d], .csHigh] .ok .none)) ∧
    (∀ k, s.answerAt 0 = .fail k →
      exec (.wframe a d) s = .next (s.finished 1 [.csLow, .txFail ([(1#1 ++ a : Byte), d].take k), .csHigh] .eBus .none))

/-- The read frame as an instruction is the read transaction of its address bits, of as many bytes as the length on the port says
(logs 5, 6). -/
def Obligations.RframeIsReadTransaction : Prop :=
  ∀ (s : State) (a : BitVec 7),
    (s.argLen = 0 → exec (.rframe a) s = .next (s.finished 0 [] .eLength .none)) ∧
    (1 ≤ s.argLen → s.cs = .high → s.phase = .idle →
      (∀ bs given, s.answerAt 0 = .ok bs → s.answerAt 1 = .ok given →
        ∃ got : List Byte, got.length = s.argLen ∧ (given.length = s.argLen → got = given) ∧
          exec (.rframe a) s = .next (s.finished 2 [.csLow, .tx [0#1 ++ a], .rx got, .csHigh] .ok (.bytes got))) ∧
      (∀ k, s.answerAt 0 = .fail k →
        exec (.rframe a) s = .next (s.finished 1 [.csLow, .txFail ([(0#1 ++ a : Byte)].take k), .csHigh] .eBus .none)) ∧
      (∀ bs k, s.answerAt 0 = .ok bs → s.answerAt 1 = .fail k →
        exec (.rframe a) s = .next (s.finished 2 [.csLow, .tx [0#1 ++ a], .rxFail, .csHigh] .eBus .none)))

/-- R122 (which the spec marks as derived), U3, D17: where chip-select is low or a transaction is in progress, a transaction is given
no meaning, and no instruction makes a serial call or a bus event. The instructions that stop are exactly those that pass the checks
before their transaction: `XWR`, the write frame, a read of at least one byte, and an `INIT`, `RDRAW`, `RDRES` or `RDTMP` that no
check rejects. That they stop as a refusal is the model's choice (log 10). -/
def Obligations.TransactionNeedsIdleLine : Prop :=
  ∀ s : State, ¬(s.cs = .high ∧ s.phase = .idle) → ∀ i : Instr,
    (exec i s = .refused .transactionNotIdle ↔ startsTransaction i s = true) ∧
      ∀ t, exec i s = .next t → t.trace = s.trace ∧ t.draws = s.draws

/-- R110: the transport's commands depend on none of the Device Handle's elements and on no side operand, and pass them through. -/
def Obligations.TransportIgnoresHandle : Prop :=
  ∀ (i : Instr) (s : State) (d : DState) (m : Option WMode) (R N r n : Option Rat),
    (∃ addr value, i = .xwr addr value) ∨ (∃ addr k, i = .xrd addr k) →
    exec i { s with dstate := d, wmode := m, rref := R, rnom := N, argR := r, argN := n } =
      mapNext (fun t => { t with dstate := d, wmode := m, rref := R, rnom := N, argR := r, argN := n }) (exec i s)

/-! ### Configuration -/

/-- R141: the configuration byte of each wiring mode, and its bits. -/
def Obligations.ConfigurationByte : Prop :=
  cfg .w2 = 0xC2#8 ∧ cfg .w3 = 0xD2#8 ∧ cfg .w4 = 0xC2#8 ∧
    ∀ m : WMode, (cfgThreeWire (cfg m) = true ↔ m = .w3) ∧ cfg m &&& ~~~0x10#8 = 0xC2#8 &&& ~~~0x10#8 ∧
      cfgVbias (cfg m) = true ∧ cfgAutomatic (cfg m) = true

/-- R144, R148: the checks of `INIT`, state first, all before any bus event: the command ends with the error and nothing else
changes. -/
def Obligations.InitChecks : Prop :=
  ∀ (s : State) (mode : BitVec 2) (ur un : Bool),
    (s.dstate = .configured → exec (.init mode ur un) s = .next (s.finished 0 [] .eState .none)) ∧
    (s.dstate = .unconfigured →
      mode = 0b11#2 ∨ (ur = true ∧ Invalid s.argR) ∨ (un = true ∧ Invalid s.argN) →
      exec (.init mode ur un) s = .next (s.finished 0 [] .eParam .none))

/-- R143, R145, R147: after its checks `INIT` writes the mode's configuration byte to address 0x00 and then holds the mode and the
two resistances, each the selected side operand or its default; when the write fails it answers `E_BUS` and creates nothing; every
mode field and every pair of flags has its word. -/
def Obligations.InitConfigures : Prop :=
  ∀ (s : State) (mode : BitVec 2) (ur un : Bool),
    (s.dstate = .configured → exec (.init mode ur un) s = .next (s.finished 0 [] .eState .none)) ∧
    (s.dstate = .unconfigured →
      mode = 0b11#2 ∨ (ur = true ∧ Invalid s.argR) ∨ (un = true ∧ Invalid s.argN) →
      exec (.init mode ur un) s = .next (s.finished 0 [] .eParam .none)) ∧
    (∀ (m : WMode) (byte : Byte) (R N : Rat), s.cs = .high → s.phase = .idle → s.dstate = .unconfigured →
      (mode, m, byte) ∈ [(0b00#2, .w2, 0xC2#8), (0b01#2, .w3, 0xD2#8), (0b10#2, .w4, 0xC2#8)] →
      (ur = true → s.argR = some R) → (ur = false → R = 430) → (un = true → s.argN = some N) → (un = false → N = 100) →
      0 < R → 0 < N →
      (∀ bs, s.answerAt 0 = .ok bs →
        exec (.init mode ur un) s = .next
          { s.finished 1 [.csLow, .tx [0x80#8, byte], .csHigh] .ok .none with
            dstate := .configured, wmode := some m, rref := some R, rnom := some N }) ∧
      (∀ k, s.answerAt 0 = .fail k →
        exec (.init mode ur un) s =
          .next (s.finished 1 [.csLow, .txFail ([0x80#8, byte].take k), .csHigh] .eBus .none))) ∧
    decodeWord (0x10#8 ++ (0#6 ++ mode) ++ (0#6 ++ BitVec.ofBool un ++ BitVec.ofBool ur) ++ 0x00#8) =
      .ok (.init mode ur un)

/-- R149: `DEINIT` ends the Device Handle, in every state, with no bus event and always `OK`. -/
def Obligations.DeinitEndsHandle : Prop :=
  decodeWord 0x1F000000#32 = .ok .deinit ∧
    ∀ s : State, exec .deinit s = .next
      { s with dstate := .unconfigured, wmode := none, rref := none, rnom := none,
               responses := s.responses ++ [⟨.ok, .none⟩] }

/-! ### Conversion -/

/-- R160: the conversion commands are refused with `E_STATE` on an unconfigured block, with no bus event. -/
def Obligations.ConversionsNeedHandle : Prop :=
  ∀ (s : State) (ur un : Bool), s.dstate = .unconfigured →
    exec .rdraw s = .next (s.finished 0 [] .eState .none) ∧ exec (.rdres ur) s = .next (s.finished 0 [] .eState .none) ∧
      exec (.rdtmp ur un) s = .next (s.finished 0 [] .eState .none)

/-- R162: `RDRAW` reads two bytes at 0x01 and returns the raw code. -/
def Obligations.RdrawReadsRawCode : Prop :=
  decodeWord 0x11000000#32 = .ok .rdraw ∧ ∀ s : State,
    (s.dstate = .unconfigured → exec .rdraw s = .next (s.finished 0 [] .eState .none)) ∧
    (s.dstate = .configured → s.cs = .high → s.phase = .idle →
      (∀ bs given, s.answerAt 0 = .ok bs → s.answerAt 1 = .ok given →
        ∃ b0 b1 : Byte, (∀ c0 c1, given = [c0, c1] → b0 = c0 ∧ b1 = c1) ∧
          exec .rdraw s = .next (s.finished 2 [.csLow, .tx [0x01#8], .rx [b0, b1], .csHigh] .ok
            (.raw (BitVec.ofNat 16 ((256 * b0.toNat + b1.toNat) / 2))))) ∧
      (∀ k, s.answerAt 0 = .fail k →
        exec .rdraw s = .next (s.finished 1 [.csLow, .txFail ([0x01#8].take k), .csHigh] .eBus .none)) ∧
      (∀ bs k, s.answerAt 0 = .ok bs → s.answerAt 1 = .fail k →
        exec .rdraw s = .next (s.finished 2 [.csLow, .tx [0x01#8], .rxFail, .csHigh] .eBus .none)))

/-- R165, R166: `RDRES` returns `raw * R / 32768`, with `R` the override when it is selected, else `RREF`; `E_STATE` then `E_PARAM`
before any bus event, `E_BUS` after one. -/
def Obligations.RdresReadsResistance : Prop :=
  (∀ ur : Bool, decodeWord (0x12#8 ++ 0x00#8 ++ (0#7 ++ BitVec.ofBool ur) ++ 0x00#8) = .ok (.rdres ur)) ∧
  ∀ (s : State) (ur : Bool),
    (s.dstate = .unconfigured → exec (.rdres ur) s = .next (s.finished 0 [] .eState .none)) ∧
    (s.dstate = .configured → ur = true → Invalid s.argR → exec (.rdres ur) s = .next (s.finished 0 [] .eParam .none)) ∧
    (∀ R : Rat, s.dstate = .configured → s.cs = .high → s.phase = .idle → (ur = true → s.argR = some R) →
      (ur = false → s.rref = some R) → 0 < R →
      (∀ bs given, s.answerAt 0 = .ok bs → s.answerAt 1 = .ok given →
        ∃ b0 b1 : Byte, (∀ c0 c1, given = [c0, c1] → b0 = c0 ∧ b1 = c1) ∧
          exec (.rdres ur) s = .next (s.finished 2 [.csLow, .tx [0x01#8], .rx [b0, b1], .csHigh] .ok
            (.value (((256 * b0.toNat + b1.toNat) / 2 : Nat) * R / 32768)))) ∧
      (∀ k, s.answerAt 0 = .fail k →
        exec (.rdres ur) s = .next (s.finished 1 [.csLow, .txFail ([0x01#8].take k), .csHigh] .eBus .none)) ∧
      (∀ bs k, s.answerAt 0 = .ok bs → s.answerAt 1 = .fail k →
        exec (.rdres ur) s = .next (s.finished 2 [.csLow, .tx [0x01#8], .rxFail, .csHigh] .eBus .none)))

/-- R167, R169: `RDTMP` returns `(rho / N - 1) / (77/20000)` of the resistance of the same two bytes, with `R` and `N` the overrides
that are selected, else `RREF` and `RNOM`; `E_STATE` then `E_PARAM` before any bus event, `E_BUS` after one. -/
def Obligations.RdtmpReadsTemperature : Prop :=
  (∀ ur un : Bool,
    decodeWord (0x13#8 ++ 0x00#8 ++ (0#6 ++ BitVec.ofBool un ++ BitVec.ofBool ur) ++ 0x00#8) = .ok (.rdtmp ur un)) ∧
  ∀ (s : State) (ur un : Bool),
    (s.dstate = .unconfigured → exec (.rdtmp ur un) s = .next (s.finished 0 [] .eState .none)) ∧
    (s.dstate = .configured → (ur = true ∧ Invalid s.argR) ∨ (un = true ∧ Invalid s.argN) →
      exec (.rdtmp ur un) s = .next (s.finished 0 [] .eParam .none)) ∧
    (∀ R N : Rat, s.dstate = .configured → s.cs = .high → s.phase = .idle → (ur = true → s.argR = some R) →
      (ur = false → s.rref = some R) → (un = true → s.argN = some N) → (un = false → s.rnom = some N) → 0 < R → 0 < N →
      (∀ bs given, s.answerAt 0 = .ok bs → s.answerAt 1 = .ok given →
        ∃ b0 b1 : Byte, (∀ c0 c1, given = [c0, c1] → b0 = c0 ∧ b1 = c1) ∧
          exec (.rdtmp ur un) s = .next (s.finished 2 [.csLow, .tx [0x01#8], .rx [b0, b1], .csHigh] .ok
            (.value ((((256 * b0.toNat + b1.toNat) / 2 : Nat) * R / 32768 / N - 1) / (77 / 20000))))) ∧
      (∀ k, s.answerAt 0 = .fail k →
        exec (.rdtmp ur un) s = .next (s.finished 1 [.csLow, .txFail ([0x01#8].take k), .csHigh] .eBus .none)) ∧
      (∀ bs k, s.answerAt 0 = .ok bs → s.answerAt 1 = .fail k →
        exec (.rdtmp ur un) s = .next (s.finished 2 [.csLow, .tx [0x01#8], .rxFail, .csHigh] .eBus .none)))

/-- The model's choice of log 11: a conversion that needs an element of the handle which holds no positive value stops with a fault,
in states no run reaches. -/
def Obligations.MissingHandleValueFaults : Prop :=
  ∀ s : State, s.dstate = .configured →
    (Invalid s.rref → exec (.rdres false) s = .fault .noHandleValue ∧ exec (.rdtmp false false) s = .fault .noHandleValue) ∧
    (Invalid s.rnom → exec (.rdtmp false false) s = .fault .noHandleValue)

/-- R161, and R164, which the spec derives from it: the raw code is the pair halved, never above 32767, and every value of that
range is reached by two pairs. -/
def Obligations.RawCodeArithmetic : Prop :=
  (∀ b0 b1 : Byte, (rtdPair b0 b1).toNat = 256 * b0.toNat + b1.toNat ∧
    (rawCode b0 b1).toNat = (256 * b0.toNat + b1.toNat) / 2 ∧ (rawCode b0 b1).toNat ≤ 32767) ∧
  ∀ r : Nat, r ≤ 32767 → ∃ b0 b1 : Byte, faultFlag b1 = false ∧ (rawCode b0 b1).toNat = r ∧
    (rawCode b0 (b1 ^^^ 0x01#8)).toNat = r ∧
    ∀ c0 c1 : Byte, (rawCode c0 c1).toNat = r → c0 = b0 ∧ (c1 = b1 ∨ c1 = b1 ^^^ 0x01#8)

/-- R163: flipping the fault flag of the two bytes changes nothing but where those bytes themselves are on record: the `RX` event that
shows them, and the input queue while they still stand in it. The outcome, the response, every other bus event, every other input and
the whole state are the same. -/
def Obligations.FaultFlagInvisible : Prop :=
  ∀ (i : Instr) (s : State) (first : SpiAnswer) (b0 b1 : Byte) (rest : List SpiAnswer),
    i = .rdraw ∨ (∃ ur, i = .rdres ur) ∨ (∃ ur un, i = .rdtmp ur un) →
    exec i { s with answers := first :: .ok [b0, b1 ^^^ 0x01#8] :: rest } =
      mapNext (fun t =>
        { t with
          trace := s.trace ++ (t.trace.drop s.trace.length).map fun e =>
            if e = .rx [b0, b1] then .rx [b0, b1 ^^^ 0x01#8] else e
          answers := (first :: .ok [b0, b1 ^^^ 0x01#8] :: rest).drop (t.draws - s.draws) })
        (exec i { s with answers := first :: .ok [b0, b1] :: rest })

/-- R165: the resistance lies in `[0, R)` and is 0 exactly for raw code 0. -/
def Obligations.ResistanceLaws : Prop :=
  ∀ (r : Nat) (R : Rat), r ≤ 32767 → 0 < R →
    resistance r R = r * R / 32768 ∧ 0 ≤ resistance r R ∧ resistance r R < R ∧ (resistance r R = 0 ↔ r = 0)

/-- R167: the temperature is negative exactly below the nominal resistance and 0 exactly at it. -/
def Obligations.TemperatureLaws : Prop :=
  ∀ rho N : Rat, 0 < N →
    temperature rho N = (rho / N - 1) / (77 / 20000) ∧ temperature rho N = (rho - N) * 20000 / (77 * N) ∧
      (temperature rho N < 0 ↔ rho < N) ∧ (temperature rho N = 0 ↔ rho = N)

/-- R177, which the spec derives from R164, R165 and R167: the ranges of the two results. -/
def Obligations.ConversionRanges : Prop :=
  (∀ r : Nat, r ≤ 32767 →
    0 ≤ resistance r 430 ∧ resistance r 430 ≤ 7044905 / 16384 ∧
      -20000 / 77 ≤ temperature (resistance r 430) 100 ∧ temperature (resistance r 430) 100 ≤ 135162625 / 157696) ∧
  ∀ (r : Nat) (R N : Rat), r ≤ 32767 → 0 < R → 0 < N →
    0 ≤ resistance r R ∧ resistance r R < R ∧ -20000 / 77 ≤ temperature (resistance r R) N ∧
      temperature (resistance r R) N < (R / N - 1) * 20000 / 77

/-- The resistance sentence of R172, which the spec derives from R165: with `R` held with `f` fraction bits, the integer product read
with `f + 15` fraction bits is the resistance exactly. -/
def Obligations.FixedPointResistance : Prop :=
  ∀ (r : Nat) (R : FixedPoint), (resistanceFixed r R).mantissa = r * R.mantissa ∧
    (resistanceFixed r R).fraction = R.fraction + 15 ∧ fixedValue (resistanceFixed r R) = resistance r (fixedValue R)

/-- The temperature sentence of R172 (D27, U11): whatever rounding `TEMP_ROUND` stands for, the result of the temperature stage
conforms to the exact temperature, also after the fixed-point resistance stage, and is 0 at `rho = N`; and every rounding that meets
the tolerance of R171 is admitted as it is. That one outside the tolerance leaves the exact value is the model's bound (log 12). -/
def Obligations.RealisedTemperature : Prop :=
  ∀ rho N : Rat, 0 < N →
    Conforms (temperature rho N) (temperatureRealised rho N) ∧
    (∀ (r : Nat) (R : FixedPoint), Conforms (temperature (resistance r (fixedValue R)) N)
      (temperatureRealised (fixedValue (resistanceFixed r R)) N)) ∧
    (rho = N → temperatureRealised rho N = 0) ∧
    ∀ round : Rat → Rat → Rat, Conforms ((rho - N) * 20000 / (77 * N)) (round ((rho - N) * 20000) (77 * N)) →
      temperatureRounded round rho N = round ((rho - N) * 20000) (77 * N)

/-- R171: the exact value conforms to itself, a value conforms to 0 only if it is 0, and the tolerance is 1e-9 relative. -/
def Obligations.ConformanceTolerance : Prop :=
  ∀ x y : Rat, (Conforms x y ↔ |y - x| ≤ 1 / 1000000000 * |x|) ∧ (Conforms 0 y ↔ y = 0)

/-! ### Every instruction -/

/-- R114 (the traces are those R120 derives): a command that answered showed nothing, or exactly one bracket: chip-select low
first and high last, each once, one frame between them; it made at most two serial calls. -/
def Obligations.EveryTransactionIsOneBracket : Prop :=
  ∀ (i : Instr) (s t : State) (r : Response), exec i s = .next t → t.responses = s.responses ++ [r] →
    ∃ mid : List BusEvent,
      (t.trace = s.trace ∧ t.draws = s.draws) ∨
      (t.trace = s.trace ++ ([.csLow] ++ mid ++ [.csHigh]) ∧ .csLow ∉ mid ∧ .csHigh ∉ mid ∧
        s.draws < t.draws ∧ t.draws ≤ s.draws + 2 ∧
        ((∃ sent, mid = [.tx sent]) ∨ (∃ part, mid = [.txFail part]) ∨
          (∃ header got, mid = [.tx [header], .rx got]) ∨ (∃ header, mid = [.tx [header], .rxFail])))

/-- R95, and R198, which the spec derives from the commands' rules: a command gives exactly one response, unless one of its serial calls
never returned; the status is one the table allows the command, and the payload is the one the status and the command say. The state
of a command whose call never returned is the model's choice (log 13). -/
def Obligations.EveryCommandAnswersOnce : Prop :=
  ∀ (i : Instr) (s t : State), s.phase = .idle → exec i s = .next t →
    (∃ r : Response, t.responses = s.responses ++ [r] ∧ t.phase = .idle ∧ mayReport i r.status = true ∧
      (r.status = .ok → payloadFits i s.argLen r.payload = true) ∧ (r.status ≠ .ok → r.payload = .none)) ∨
    (CallHung s t ∧ t.responses = s.responses ∧ t.phase ≠ .idle ∧ t.cs = .low)

/-- R201: after an error the Device Handle is exactly as before, chip-select and phase are idle again, and the payload is none. -/
def Obligations.ErrorsChangeNothing : Prop :=
  ∀ (i : Instr) (s t : State) (r : Response), s.cs = .high → s.phase = .idle → exec i s = .next t →
    t.responses = s.responses ++ [r] → r.status ≠ .ok →
    t.dstate = s.dstate ∧ t.wmode = s.wmode ∧ t.rref = s.rref ∧ t.rnom = s.rnom ∧ t.cs = .high ∧ t.phase = .idle ∧
      r.payload = .none

/-- R199: a command that reports an error other than `E_BUS` left no bus event and took no serial call: only the response is new. -/
def Obligations.RejectionsLeaveBusAlone : Prop :=
  ∀ (i : Instr) (s t : State) (r : Response), exec i s = .next t → t.responses = s.responses ++ [r] →
    r.status ≠ .ok → r.status ≠ .eBus → t = { s with responses := s.responses ++ [r] }

/-- R150, which the spec derives from the commands' rules: `DSTATE` moves only by an `INIT` that answers `OK` and by `DEINIT`. -/
def Obligations.HandleLifecycle : Prop :=
  ∀ (i : Instr) (s t : State), exec i s = .next t →
    (t.dstate = s.dstate ∨ (s.dstate = .unconfigured ∧ t.dstate = .configured ∧
        (∃ mode ur un, i = .init mode ur un) ∧ t.responses = s.responses ++ [⟨.ok, .none⟩]) ∨
      (s.dstate = .configured ∧ t.dstate = .unconfigured ∧ i = .deinit ∧ t.responses = s.responses ++ [⟨.ok, .none⟩])) ∧
    (i = .deinit → t.dstate = .unconfigured)

/-- R32: a configured block got its wiring mode with the configuration byte of that mode as the last thing its `INIT` wrote to
address 0x00, and nothing else gives it one. -/
def Obligations.ModeMatchesByteWritten : Prop :=
  ∀ (i : Instr) (s t : State) (m : WMode), exec i s = .next t → t.dstate = .configured → t.wmode = some m →
    (s.dstate = .configured ∧ s.wmode = some m) ∨
      ((∃ mode ur un, i = .init mode ur un) ∧ t.trace = s.trace ++ [.csLow, .tx [0x80#8, cfg m], .csHigh])

/-- The frame of all instructions but `INIT` and `DEINIT`: the Device Handle, the operands on the port and the host's coming events
are unchanged; bus trace and responses only grow; chip-select and phase are as before unless a serial call never returned. -/
def Obligations.HandleFrame : Prop :=
  ∀ (i : Instr) (s t : State), leavesHandle i = true → exec i s = .next t →
    t.dstate = s.dstate ∧ t.wmode = s.wmode ∧ t.rref = s.rref ∧ t.rnom = s.rnom ∧
      t.argR = s.argR ∧ t.argN = s.argN ∧ t.argLen = s.argLen ∧ t.inbox = s.inbox ∧
      s.trace <+: t.trace ∧ s.responses <+: t.responses ∧
      ((t.cs = s.cs ∧ t.phase = s.phase) ∨
        (CallHung s t ∧ t.cs = .low ∧ t.phase ≠ .idle ∧ t.responses = s.responses))

/-- The frame of `INIT`: the operands on the port and the host's coming events are unchanged, bus trace and responses only grow, and
the Device Handle is unchanged unless the response is `OK`. -/
def Obligations.InitFrame : Prop :=
  ∀ (mode : BitVec 2) (ur un : Bool) (s t : State), exec (.init mode ur un) s = .next t →
    t.argR = s.argR ∧ t.argN = s.argN ∧ t.argLen = s.argLen ∧ t.inbox = s.inbox ∧
      s.trace <+: t.trace ∧ s.responses <+: t.responses ∧
      (t.responses = s.responses ++ [⟨.ok, .none⟩] ∨
        (t.dstate = s.dstate ∧ t.wmode = s.wmode ∧ t.rref = s.rref ∧ t.rnom = s.rnom)) ∧
      ((t.cs = s.cs ∧ t.phase = s.phase) ∨
        (CallHung s t ∧ t.cs = .low ∧ t.phase ≠ .idle ∧ t.responses = s.responses))

/-- R247: a command ends if and only if every serial call it makes returns; one that does not end leaves chip-select low. -/
def Obligations.CommandEndsIffCallsReturn : Prop :=
  ∀ (i : Instr) (s t : State), s.cs = .high → s.phase = .idle → exec i s = .next t →
    (t.phase = .idle ↔ ∀ k, s.draws + k < t.draws → s.answerAt k ≠ .hang) ∧ (t.phase ≠ .idle → t.cs = .low)

/-- A serial call that never returns (R123): chip-select stays low and the command never responds. For every instruction that reaches
its transaction, and each of its calls, this is the exact next state. That it is one, with `PHASE` SELECTED or SENT and no event of
the call that hangs, is the model's choice (log 13). -/
def Obligations.SerialHangLeavesLineLow : Prop :=
  ∀ (i : Instr) (s : State), s.cs = .high → s.phase = .idle → startsTransaction i s = true →
    (s.answerAt 0 = .hang → exec i s = .next (s.stuckIn .selected 1 [.csLow])) ∧
    (∀ bs header, readHeaderOf i = some header → s.answerAt 0 = .ok bs → s.answerAt 1 = .hang →
      exec i s = .next (s.stuckIn .sent 2 [.csLow, .tx [header]]))

/-- R203, R34: no command reads what the bus or the response port showed before: an earlier error is not remembered. -/
def Obligations.ObservationsNeverRead : Prop :=
  ∀ (i : Instr) (s : State) (tr : List BusEvent) (rs : List Response),
    exec i { s with trace := tr, responses := rs } =
      mapNext (fun t => { t with trace := tr ++ t.trace.drop s.trace.length,
                                 responses := rs ++ t.responses.drop s.responses.length }) (exec i s)

/-- R92: a side operand whose flag is 0 is ignored, whatever it holds. -/
def Obligations.UnselectedOperandsIgnored : Prop :=
  ∀ (s : State) (mode : BitVec 2) (f : Bool) (q : Option Rat),
    (∀ i, i = .init mode false f ∨ i = .rdres false ∨ i = .rdtmp false f →
      exec i { s with argR := q } = mapNext (fun t => { t with argR := q }) (exec i s)) ∧
    (∀ i, i = .init mode f false ∨ i = .rdres f ∨ i = .rdtmp f false →
      exec i { s with argN := q } = mapNext (fun t => { t with argN := q }) (exec i s))

/-- Item 5 of R60 for one step: a step only appends to the bus trace and to the responses, at most one response. R60 speaks of
commands; that a reset's step keeps what was shown before is the model's reading (log 8). -/
def Obligations.StepOnlyAppends : Prop :=
  ∀ s t : State, step s = .next t →
    s.trace <+: t.trace ∧ (t.responses = s.responses ∨ ∃ r, t.responses = s.responses ++ [r])
end

