-- ==== Sys2Proof/Laws/Decode.lean ====
section
/-! SUPPORT. The fields of an assembled command word, and a command word from its fields (spec/30_encoding.md R88). -/

namespace Sys2Proof

/-- A command word bit by bit. -/
theorem commandWord_getLsbD (op a b c : Byte) (i : Nat) :
    (commandWord op a b c).getLsbD i =
      if i < 8 then c.getLsbD i else if i < 16 then b.getLsbD (i - 8)
      else if i < 24 then a.getLsbD (i - 16) else op.getLsbD (i - 24) := by
  show BitVec.getLsbD (w := 8 + 8 + 8 + 8) (op ++ a ++ b ++ c) i = _
  rw [BitVec.getLsbD_append, BitVec.getLsbD_append, BitVec.getLsbD_append]
  simp only [Nat.sub_sub]
  split_ifs <;> first | rfl | omega

@[simp] theorem opField_commandWord (op a b c : Byte) : opField (commandWord op a b c) = op := by
  ext i hi
  rw [opField, BitVec.getElem_extractLsb', commandWord_getLsbD]
  simp [show ¬ 24 + i < 8 by omega, show ¬ 24 + i < 16 by omega, hi]

@[simp] theorem aField_commandWord (op a b c : Byte) : aField (commandWord op a b c) = a := by
  ext i hi
  rw [aField, BitVec.getElem_extractLsb', commandWord_getLsbD]
  simp [show ¬ 16 + i < 8 by omega, show 16 + i < 24 by omega, hi]

@[simp] theorem bField_commandWord (op a b c : Byte) : bField (commandWord op a b c) = b := by
  ext i hi
  rw [bField, BitVec.getElem_extractLsb', commandWord_getLsbD]
  simp [show 8 + i < 16 by omega, hi]

@[simp] theorem cField_commandWord (op a b c : Byte) : cField (commandWord op a b c) = c := by
  ext i hi
  rw [cField, BitVec.getElem_extractLsb', commandWord_getLsbD]
  simp [hi]

/-- A command word is its four byte fields (R88). -/
theorem commandWord_fields (w : CommandWord) : commandWord (opField w) (aField w) (bField w) (cField w) = w := by
  apply BitVec.eq_of_getLsbD_eq
  intro i hi
  rw [commandWord_getLsbD]
  simp only [opField, aField, bField, cField, BitVec.getLsbD_extractLsb']
  split_ifs with h1 h2 h3
  · simp [h1]
  · simp [show i - 8 < 8 by omega, show 8 + (i - 8) = i by omega]
  · simp [show i - 16 < 8 by omega, show 16 + (i - 16) = i by omega]
  · simp [show i - 24 < 8 by omega, show 24 + (i - 24) = i by omega]

/-- The mode field and the flags of a word are bits of its operand bytes (R91, R92). -/
theorem modeField_eq (w : CommandWord) : modeField w = (aField w).extractLsb' 0 2 := by
  ext i hi
  simp [modeField, aField, show i < 8 by omega]

theorem urBit_eq (w : CommandWord) : urBit w = (bField w).getLsbD 0 := by
  simp [urBit, bField]

theorem unBit_eq (w : CommandWord) : unBit w = (bField w).getLsbD 1 := by
  simp [unBit, bField]

@[simp] theorem modeField_commandWord (op a b c : Byte) : modeField (commandWord op a b c) = a.extractLsb' 0 2 := by
  rw [modeField_eq, aField_commandWord]

@[simp] theorem urBit_commandWord (op a b c : Byte) : urBit (commandWord op a b c) = b.getLsbD 0 := by
  rw [urBit_eq, bField_commandWord]

@[simp] theorem unBit_commandWord (op a b c : Byte) : unBit (commandWord op a b c) = b.getLsbD 1 := by
  rw [unBit_eq, bField_commandWord]

/-- Masking a command word is masking its bytes. -/
theorem commandWord_and (op a b c op' a' b' c' : Byte) :
    commandWord op a b c &&& commandWord op' a' b' c' = commandWord (op &&& op') (a &&& a') (b &&& b') (c &&& c') := by
  apply BitVec.eq_of_getLsbD_eq
  intro i hi
  simp only [BitVec.getLsbD_and, commandWord_getLsbD]
  split_ifs <;> rfl

/-- Two command words agree when their bytes do. -/
theorem commandWord_inj {op a b c op' a' b' c' : Byte} :
    commandWord op a b c = commandWord op' a' b' c' ↔ op = op' ∧ a = a' ∧ b = b' ∧ c = c' := by
  constructor
  · intro h
    exact ⟨by simpa using congrArg opField h, by simpa using congrArg aField h, by simpa using congrArg bField h,
      by simpa using congrArg cField h⟩
  · rintro ⟨rfl, rfl, rfl, rfl⟩; rfl

end Sys2Proof
end

