-- ==== Sys2Proof/Laws/State.lean ====
section
/-! SUPPORT. One lemma per field per update of the state, each true by `rfl`, so that no proof unfolds a record update. -/

namespace Sys2Proof.Machine.State

/-! ### `logEvent` -/

@[simp] theorem logEvent_cs (s : State) (e : BusEvent) : (s.logEvent e).cs = s.cs := rfl
@[simp] theorem logEvent_dstate (s : State) (e : BusEvent) : (s.logEvent e).dstate = s.dstate := rfl
@[simp] theorem logEvent_wmode (s : State) (e : BusEvent) : (s.logEvent e).wmode = s.wmode := rfl
@[simp] theorem logEvent_rref (s : State) (e : BusEvent) : (s.logEvent e).rref = s.rref := rfl
@[simp] theorem logEvent_rnom (s : State) (e : BusEvent) : (s.logEvent e).rnom = s.rnom := rfl
@[simp] theorem logEvent_phase (s : State) (e : BusEvent) : (s.logEvent e).phase = s.phase := rfl
@[simp] theorem logEvent_argR (s : State) (e : BusEvent) : (s.logEvent e).argR = s.argR := rfl
@[simp] theorem logEvent_argN (s : State) (e : BusEvent) : (s.logEvent e).argN = s.argN := rfl
@[simp] theorem logEvent_argLen (s : State) (e : BusEvent) : (s.logEvent e).argLen = s.argLen := rfl
@[simp] theorem logEvent_inbox (s : State) (e : BusEvent) : (s.logEvent e).inbox = s.inbox := rfl
@[simp] theorem logEvent_answers (s : State) (e : BusEvent) : (s.logEvent e).answers = s.answers := rfl
@[simp] theorem logEvent_draws (s : State) (e : BusEvent) : (s.logEvent e).draws = s.draws := rfl
@[simp] theorem logEvent_trace (s : State) (e : BusEvent) : (s.logEvent e).trace = s.trace ++ [e] := rfl
@[simp] theorem logEvent_responses (s : State) (e : BusEvent) : (s.logEvent e).responses = s.responses := rfl

/-! ### `setPhase` -/

@[simp] theorem setPhase_cs (s : State) (p : Phase) : (s.setPhase p).cs = s.cs := rfl
@[simp] theorem setPhase_dstate (s : State) (p : Phase) : (s.setPhase p).dstate = s.dstate := rfl
@[simp] theorem setPhase_wmode (s : State) (p : Phase) : (s.setPhase p).wmode = s.wmode := rfl
@[simp] theorem setPhase_rref (s : State) (p : Phase) : (s.setPhase p).rref = s.rref := rfl
@[simp] theorem setPhase_rnom (s : State) (p : Phase) : (s.setPhase p).rnom = s.rnom := rfl
@[simp] theorem setPhase_phase (s : State) (p : Phase) : (s.setPhase p).phase = p := rfl
@[simp] theorem setPhase_argR (s : State) (p : Phase) : (s.setPhase p).argR = s.argR := rfl
@[simp] theorem setPhase_argN (s : State) (p : Phase) : (s.setPhase p).argN = s.argN := rfl
@[simp] theorem setPhase_argLen (s : State) (p : Phase) : (s.setPhase p).argLen = s.argLen := rfl
@[simp] theorem setPhase_inbox (s : State) (p : Phase) : (s.setPhase p).inbox = s.inbox := rfl
@[simp] theorem setPhase_answers (s : State) (p : Phase) : (s.setPhase p).answers = s.answers := rfl
@[simp] theorem setPhase_draws (s : State) (p : Phase) : (s.setPhase p).draws = s.draws := rfl
@[simp] theorem setPhase_trace (s : State) (p : Phase) : (s.setPhase p).trace = s.trace := rfl
@[simp] theorem setPhase_responses (s : State) (p : Phase) : (s.setPhase p).responses = s.responses := rfl

/-! ### `csSet_low` -/

@[simp] theorem csSet_low_cs (s : State) : (s.csSet .low).cs = .low := rfl
@[simp] theorem csSet_low_dstate (s : State) : (s.csSet .low).dstate = s.dstate := rfl
@[simp] theorem csSet_low_wmode (s : State) : (s.csSet .low).wmode = s.wmode := rfl
@[simp] theorem csSet_low_rref (s : State) : (s.csSet .low).rref = s.rref := rfl
@[simp] theorem csSet_low_rnom (s : State) : (s.csSet .low).rnom = s.rnom := rfl
@[simp] theorem csSet_low_phase (s : State) : (s.csSet .low).phase = .selected := rfl
@[simp] theorem csSet_low_argR (s : State) : (s.csSet .low).argR = s.argR := rfl
@[simp] theorem csSet_low_argN (s : State) : (s.csSet .low).argN = s.argN := rfl
@[simp] theorem csSet_low_argLen (s : State) : (s.csSet .low).argLen = s.argLen := rfl
@[simp] theorem csSet_low_inbox (s : State) : (s.csSet .low).inbox = s.inbox := rfl
@[simp] theorem csSet_low_answers (s : State) : (s.csSet .low).answers = s.answers := rfl
@[simp] theorem csSet_low_draws (s : State) : (s.csSet .low).draws = s.draws := rfl
@[simp] theorem csSet_low_trace (s : State) : (s.csSet .low).trace = s.trace ++ [.csLow] := rfl
@[simp] theorem csSet_low_responses (s : State) : (s.csSet .low).responses = s.responses := rfl

/-! ### `csSet_high` -/

@[simp] theorem csSet_high_cs (s : State) : (s.csSet .high).cs = .high := rfl
@[simp] theorem csSet_high_dstate (s : State) : (s.csSet .high).dstate = s.dstate := rfl
@[simp] theorem csSet_high_wmode (s : State) : (s.csSet .high).wmode = s.wmode := rfl
@[simp] theorem csSet_high_rref (s : State) : (s.csSet .high).rref = s.rref := rfl
@[simp] theorem csSet_high_rnom (s : State) : (s.csSet .high).rnom = s.rnom := rfl
@[simp] theorem csSet_high_phase (s : State) : (s.csSet .high).phase = .idle := rfl
@[simp] theorem csSet_high_argR (s : State) : (s.csSet .high).argR = s.argR := rfl
@[simp] theorem csSet_high_argN (s : State) : (s.csSet .high).argN = s.argN := rfl
@[simp] theorem csSet_high_argLen (s : State) : (s.csSet .high).argLen = s.argLen := rfl
@[simp] theorem csSet_high_inbox (s : State) : (s.csSet .high).inbox = s.inbox := rfl
@[simp] theorem csSet_high_answers (s : State) : (s.csSet .high).answers = s.answers := rfl
@[simp] theorem csSet_high_draws (s : State) : (s.csSet .high).draws = s.draws := rfl
@[simp] theorem csSet_high_trace (s : State) : (s.csSet .high).trace = s.trace ++ [.csHigh] := rfl
@[simp] theorem csSet_high_responses (s : State) : (s.csSet .high).responses = s.responses := rfl

/-! ### `drawn` -/

@[simp] theorem drawn_cs (s : State) : (s.drawn).cs = s.cs := rfl
@[simp] theorem drawn_dstate (s : State) : (s.drawn).dstate = s.dstate := rfl
@[simp] theorem drawn_wmode (s : State) : (s.drawn).wmode = s.wmode := rfl
@[simp] theorem drawn_rref (s : State) : (s.drawn).rref = s.rref := rfl
@[simp] theorem drawn_rnom (s : State) : (s.drawn).rnom = s.rnom := rfl
@[simp] theorem drawn_phase (s : State) : (s.drawn).phase = s.phase := rfl
@[simp] theorem drawn_argR (s : State) : (s.drawn).argR = s.argR := rfl
@[simp] theorem drawn_argN (s : State) : (s.drawn).argN = s.argN := rfl
@[simp] theorem drawn_argLen (s : State) : (s.drawn).argLen = s.argLen := rfl
@[simp] theorem drawn_inbox (s : State) : (s.drawn).inbox = s.inbox := rfl
@[simp] theorem drawn_answers (s : State) : (s.drawn).answers = s.answers.tail := rfl
@[simp] theorem drawn_draws (s : State) : (s.drawn).draws = s.draws + 1 := rfl
@[simp] theorem drawn_trace (s : State) : (s.drawn).trace = s.trace := rfl
@[simp] theorem drawn_responses (s : State) : (s.drawn).responses = s.responses := rfl

/-! ### `respond` -/

@[simp] theorem respond_cs (s : State) (st : Status) (p : Payload) : (s.respond st p).cs = s.cs := rfl
@[simp] theorem respond_dstate (s : State) (st : Status) (p : Payload) : (s.respond st p).dstate = s.dstate := rfl
@[simp] theorem respond_wmode (s : State) (st : Status) (p : Payload) : (s.respond st p).wmode = s.wmode := rfl
@[simp] theorem respond_rref (s : State) (st : Status) (p : Payload) : (s.respond st p).rref = s.rref := rfl
@[simp] theorem respond_rnom (s : State) (st : Status) (p : Payload) : (s.respond st p).rnom = s.rnom := rfl
@[simp] theorem respond_phase (s : State) (st : Status) (p : Payload) : (s.respond st p).phase = s.phase := rfl
@[simp] theorem respond_argR (s : State) (st : Status) (p : Payload) : (s.respond st p).argR = s.argR := rfl
@[simp] theorem respond_argN (s : State) (st : Status) (p : Payload) : (s.respond st p).argN = s.argN := rfl
@[simp] theorem respond_argLen (s : State) (st : Status) (p : Payload) : (s.respond st p).argLen = s.argLen := rfl
@[simp] theorem respond_inbox (s : State) (st : Status) (p : Payload) : (s.respond st p).inbox = s.inbox := rfl
@[simp] theorem respond_answers (s : State) (st : Status) (p : Payload) : (s.respond st p).answers = s.answers := rfl
@[simp] theorem respond_draws (s : State) (st : Status) (p : Payload) : (s.respond st p).draws = s.draws := rfl
@[simp] theorem respond_trace (s : State) (st : Status) (p : Payload) : (s.respond st p).trace = s.trace := rfl
@[simp] theorem respond_responses (s : State) (st : Status) (p : Payload) : (s.respond st p).responses = s.responses ++ [⟨st, p⟩] := rfl

/-! ### `raise` -/

@[simp] theorem raise_cs (s : State) (st : Status) : (s.raise st).cs = s.cs := rfl
@[simp] theorem raise_dstate (s : State) (st : Status) : (s.raise st).dstate = s.dstate := rfl
@[simp] theorem raise_wmode (s : State) (st : Status) : (s.raise st).wmode = s.wmode := rfl
@[simp] theorem raise_rref (s : State) (st : Status) : (s.raise st).rref = s.rref := rfl
@[simp] theorem raise_rnom (s : State) (st : Status) : (s.raise st).rnom = s.rnom := rfl
@[simp] theorem raise_phase (s : State) (st : Status) : (s.raise st).phase = s.phase := rfl
@[simp] theorem raise_argR (s : State) (st : Status) : (s.raise st).argR = s.argR := rfl
@[simp] theorem raise_argN (s : State) (st : Status) : (s.raise st).argN = s.argN := rfl
@[simp] theorem raise_argLen (s : State) (st : Status) : (s.raise st).argLen = s.argLen := rfl
@[simp] theorem raise_inbox (s : State) (st : Status) : (s.raise st).inbox = s.inbox := rfl
@[simp] theorem raise_answers (s : State) (st : Status) : (s.raise st).answers = s.answers := rfl
@[simp] theorem raise_draws (s : State) (st : Status) : (s.raise st).draws = s.draws := rfl
@[simp] theorem raise_trace (s : State) (st : Status) : (s.raise st).trace = s.trace := rfl
@[simp] theorem raise_responses (s : State) (st : Status) : (s.raise st).responses = s.responses ++ [⟨st, .none⟩] := rfl

/-! ### `configure` -/

@[simp] theorem configure_cs (s : State) (m : WMode) (R N : Rat) : (s.configure m R N).cs = s.cs := rfl
@[simp] theorem configure_dstate (s : State) (m : WMode) (R N : Rat) : (s.configure m R N).dstate = .configured := rfl
@[simp] theorem configure_wmode (s : State) (m : WMode) (R N : Rat) : (s.configure m R N).wmode = some m := rfl
@[simp] theorem configure_rref (s : State) (m : WMode) (R N : Rat) : (s.configure m R N).rref = some R := rfl
@[simp] theorem configure_rnom (s : State) (m : WMode) (R N : Rat) : (s.configure m R N).rnom = some N := rfl
@[simp] theorem configure_phase (s : State) (m : WMode) (R N : Rat) : (s.configure m R N).phase = s.phase := rfl
@[simp] theorem configure_argR (s : State) (m : WMode) (R N : Rat) : (s.configure m R N).argR = s.argR := rfl
@[simp] theorem configure_argN (s : State) (m : WMode) (R N : Rat) : (s.configure m R N).argN = s.argN := rfl
@[simp] theorem configure_argLen (s : State) (m : WMode) (R N : Rat) : (s.configure m R N).argLen = s.argLen := rfl
@[simp] theorem configure_inbox (s : State) (m : WMode) (R N : Rat) : (s.configure m R N).inbox = s.inbox := rfl
@[simp] theorem configure_answers (s : State) (m : WMode) (R N : Rat) : (s.configure m R N).answers = s.answers := rfl
@[simp] theorem configure_draws (s : State) (m : WMode) (R N : Rat) : (s.configure m R N).draws = s.draws := rfl
@[simp] theorem configure_trace (s : State) (m : WMode) (R N : Rat) : (s.configure m R N).trace = s.trace := rfl
@[simp] theorem configure_responses (s : State) (m : WMode) (R N : Rat) : (s.configure m R N).responses = s.responses := rfl

/-! ### `unconfigure` -/

@[simp] theorem unconfigure_cs (s : State) : (s.unconfigure).cs = s.cs := rfl
@[simp] theorem unconfigure_dstate (s : State) : (s.unconfigure).dstate = .unconfigured := rfl
@[simp] theorem unconfigure_wmode (s : State) : (s.unconfigure).wmode = none := rfl
@[simp] theorem unconfigure_rref (s : State) : (s.unconfigure).rref = none := rfl
@[simp] theorem unconfigure_rnom (s : State) : (s.unconfigure).rnom = none := rfl
@[simp] theorem unconfigure_phase (s : State) : (s.unconfigure).phase = s.phase := rfl
@[simp] theorem unconfigure_argR (s : State) : (s.unconfigure).argR = s.argR := rfl
@[simp] theorem unconfigure_argN (s : State) : (s.unconfigure).argN = s.argN := rfl
@[simp] theorem unconfigure_argLen (s : State) : (s.unconfigure).argLen = s.argLen := rfl
@[simp] theorem unconfigure_inbox (s : State) : (s.unconfigure).inbox = s.inbox := rfl
@[simp] theorem unconfigure_answers (s : State) : (s.unconfigure).answers = s.answers := rfl
@[simp] theorem unconfigure_draws (s : State) : (s.unconfigure).draws = s.draws := rfl
@[simp] theorem unconfigure_trace (s : State) : (s.unconfigure).trace = s.trace := rfl
@[simp] theorem unconfigure_responses (s : State) : (s.unconfigure).responses = s.responses := rfl

/-! ### `acceptCommand` -/

@[simp] theorem acceptCommand_cs (s : State) (l : List HostEvent) (r n : Option Rat) : (s.acceptCommand l r n).cs = s.cs := rfl
@[simp] theorem acceptCommand_dstate (s : State) (l : List HostEvent) (r n : Option Rat) : (s.acceptCommand l r n).dstate = s.dstate := rfl
@[simp] theorem acceptCommand_wmode (s : State) (l : List HostEvent) (r n : Option Rat) : (s.acceptCommand l r n).wmode = s.wmode := rfl
@[simp] theorem acceptCommand_rref (s : State) (l : List HostEvent) (r n : Option Rat) : (s.acceptCommand l r n).rref = s.rref := rfl
@[simp] theorem acceptCommand_rnom (s : State) (l : List HostEvent) (r n : Option Rat) : (s.acceptCommand l r n).rnom = s.rnom := rfl
@[simp] theorem acceptCommand_phase (s : State) (l : List HostEvent) (r n : Option Rat) : (s.acceptCommand l r n).phase = s.phase := rfl
@[simp] theorem acceptCommand_argR (s : State) (l : List HostEvent) (r n : Option Rat) : (s.acceptCommand l r n).argR = r := rfl
@[simp] theorem acceptCommand_argN (s : State) (l : List HostEvent) (r n : Option Rat) : (s.acceptCommand l r n).argN = n := rfl
@[simp] theorem acceptCommand_argLen (s : State) (l : List HostEvent) (r n : Option Rat) : (s.acceptCommand l r n).argLen = s.argLen := rfl
@[simp] theorem acceptCommand_inbox (s : State) (l : List HostEvent) (r n : Option Rat) : (s.acceptCommand l r n).inbox = l := rfl
@[simp] theorem acceptCommand_answers (s : State) (l : List HostEvent) (r n : Option Rat) : (s.acceptCommand l r n).answers = s.answers := rfl
@[simp] theorem acceptCommand_draws (s : State) (l : List HostEvent) (r n : Option Rat) : (s.acceptCommand l r n).draws = s.draws := rfl
@[simp] theorem acceptCommand_trace (s : State) (l : List HostEvent) (r n : Option Rat) : (s.acceptCommand l r n).trace = s.trace := rfl
@[simp] theorem acceptCommand_responses (s : State) (l : List HostEvent) (r n : Option Rat) : (s.acceptCommand l r n).responses = s.responses := rfl

/-! ### `acceptFrame` -/

@[simp] theorem acceptFrame_cs (s : State) (l : List HostEvent) (n : Nat) : (s.acceptFrame l n).cs = s.cs := rfl
@[simp] theorem acceptFrame_dstate (s : State) (l : List HostEvent) (n : Nat) : (s.acceptFrame l n).dstate = s.dstate := rfl
@[simp] theorem acceptFrame_wmode (s : State) (l : List HostEvent) (n : Nat) : (s.acceptFrame l n).wmode = s.wmode := rfl
@[simp] theorem acceptFrame_rref (s : State) (l : List HostEvent) (n : Nat) : (s.acceptFrame l n).rref = s.rref := rfl
@[simp] theorem acceptFrame_rnom (s : State) (l : List HostEvent) (n : Nat) : (s.acceptFrame l n).rnom = s.rnom := rfl
@[simp] theorem acceptFrame_phase (s : State) (l : List HostEvent) (n : Nat) : (s.acceptFrame l n).phase = s.phase := rfl
@[simp] theorem acceptFrame_argR (s : State) (l : List HostEvent) (n : Nat) : (s.acceptFrame l n).argR = s.argR := rfl
@[simp] theorem acceptFrame_argN (s : State) (l : List HostEvent) (n : Nat) : (s.acceptFrame l n).argN = s.argN := rfl
@[simp] theorem acceptFrame_argLen (s : State) (l : List HostEvent) (n : Nat) : (s.acceptFrame l n).argLen = n := rfl
@[simp] theorem acceptFrame_inbox (s : State) (l : List HostEvent) (n : Nat) : (s.acceptFrame l n).inbox = l := rfl
@[simp] theorem acceptFrame_answers (s : State) (l : List HostEvent) (n : Nat) : (s.acceptFrame l n).answers = s.answers := rfl
@[simp] theorem acceptFrame_draws (s : State) (l : List HostEvent) (n : Nat) : (s.acceptFrame l n).draws = s.draws := rfl
@[simp] theorem acceptFrame_trace (s : State) (l : List HostEvent) (n : Nat) : (s.acceptFrame l n).trace = s.trace := rfl
@[simp] theorem acceptFrame_responses (s : State) (l : List HostEvent) (n : Nat) : (s.acceptFrame l n).responses = s.responses := rfl

/-! ### `blockReset` -/

@[simp] theorem blockReset_cs (s : State) : (s.blockReset).cs = .high := rfl
@[simp] theorem blockReset_dstate (s : State) : (s.blockReset).dstate = .unconfigured := rfl
@[simp] theorem blockReset_wmode (s : State) : (s.blockReset).wmode = none := rfl
@[simp] theorem blockReset_rref (s : State) : (s.blockReset).rref = none := rfl
@[simp] theorem blockReset_rnom (s : State) : (s.blockReset).rnom = none := rfl
@[simp] theorem blockReset_phase (s : State) : (s.blockReset).phase = .idle := rfl
@[simp] theorem blockReset_argR (s : State) : (s.blockReset).argR = none := rfl
@[simp] theorem blockReset_argN (s : State) : (s.blockReset).argN = none := rfl
@[simp] theorem blockReset_argLen (s : State) : (s.blockReset).argLen = 0 := rfl
@[simp] theorem blockReset_inbox (s : State) : (s.blockReset).inbox = s.inbox := rfl
@[simp] theorem blockReset_answers (s : State) : (s.blockReset).answers = s.answers := rfl
@[simp] theorem blockReset_draws (s : State) : (s.blockReset).draws = s.draws := rfl
@[simp] theorem blockReset_trace (s : State) : (s.blockReset).trace = if s.phase = .idle then s.trace else s.trace ++ [.csHigh] := rfl
@[simp] theorem blockReset_responses (s : State) : (s.blockReset).responses = s.responses := rfl

end Sys2Proof.Machine.State
end

