-- ==== Sys2Proof/Laws/Ops.lean ====
section
/-! SUPPORT. For each shared operation, one lemma that says once everything it can do: the serial calls, the two transactions, the
two command shapes built on them. -/

namespace Sys2Proof.Machine

/-! ### Answers -/

@[simp] theorem State.answerAt_csSet (s : State) (l : Level) (k : Nat) : (s.csSet l).answerAt k = s.answerAt k := by
  cases l <;> rfl

@[simp] theorem State.answerAt_setPhase (s : State) (p : Phase) (k : Nat) : (s.setPhase p).answerAt k = s.answerAt k := rfl

@[simp] theorem State.answerAt_logEvent (s : State) (e : BusEvent) (k : Nat) :
    (s.logEvent e).answerAt k = s.answerAt k := rfl

/-- After one serial call the coming answers move up by one. -/
@[simp] theorem State.answerAt_drawn (s : State) (k : Nat) : s.drawn.answerAt k = s.answerAt (k + 1) := by
  unfold State.answerAt State.drawn
  cases s.answers with
  | nil => simp [Nat.add_assoc, Nat.add_comm 1 k]
  | cons a l => simp [Nat.add_assoc, Nat.add_comm 1 k]

/-- An answer lined up is the answer given. -/
theorem State.answerAt_lined_up {s : State} {k : Nat} {a : SpiAnswer} (h : s.answers[k]? = some a) : s.answerAt k = a := by
  simp [State.answerAt, h]

/-! ### Bytes received -/

/-- A read of `n` bytes delivers exactly `n` bytes (R118). -/
@[simp] theorem rxBytes_length (n : Nat) (given : List Byte) (d : Nat) : (rxBytes n given d).length = n := by
  simp [rxBytes]

/-- Where the answer in hand names as many bytes as were asked for, they are the bytes delivered. -/
theorem rxBytes_of_length {n : Nat} {given : List Byte} (h : given.length = n) (d : Nat) : rxBytes n given d = given := by
  apply List.ext_getElem
  · simp [h]
  · intro i h1 h2
    simp [rxBytes, h2]

/-- The two bytes of a raw read. -/
theorem rxBytes_two (given : List Byte) (d : Nat) :
    ∃ b0 b1, rxBytes 2 given d = [b0, b1] ∧ (∀ c0 c1, given = [c0, c1] → b0 = c0 ∧ b1 = c1) := by
  obtain ⟨b0, b1, h⟩ := List.length_eq_two.mp (rxBytes_length 2 given d)
  refine ⟨b0, b1, h, fun c0 c1 hg => ?_⟩
  have := rxBytes_of_length (n := 2) (given := given) (by simp [hg]) d
  rw [this, hg] at h
  simpa using h.symm

@[simp] theorem rawOfBytes_two (b0 b1 : Byte) : rawOfBytes [b0, b1] = rawCode b0 b1 := rfl

/-! ### Entry condition -/

theorem State.busIdle_iff {s : State} : s.busIdle = true ↔ s.cs = .high ∧ s.phase = .idle := by
  simp [State.busIdle]

/-! ### Shapes of an end state -/

theorem State.finished_eq (s : State) (c : Nat) (ev : List BusEvent) (st : Status) (p : Payload) :
    s.finished c ev st p = { s with
      answers := s.answers.drop c, draws := s.draws + c, trace := s.trace ++ ev, responses := s.responses ++ [⟨st, p⟩] } := rfl

theorem State.raise_eq_finished (s : State) (e : Status) : s.raise e = s.finished 0 [] e .none := by
  simp [State.raise, State.respond, State.finished]

/-! ### The serial calls, outcome by outcome -/

theorem spiTx_ok {bytes bs : List Byte} {s : State} (h : s.answerAt 0 = .ok bs) :
    spiTx bytes s = (.ok (), s.drawn.logEvent (.tx bytes)) := by simp [spiTx, h]

theorem spiTx_fail {bytes : List Byte} {k : Nat} {s : State} (h : s.answerAt 0 = .fail k) :
    spiTx bytes s = (.fail, s.drawn.logEvent (.txFail (bytes.take k))) := by simp [spiTx, h]

theorem spiTx_hang {bytes : List Byte} {s : State} (h : s.answerAt 0 = .hang) : spiTx bytes s = (.hang, s.drawn) := by
  simp [spiTx, h]

theorem spiRx_ok {n : Nat} {given : List Byte} {s : State} (h : s.answerAt 0 = .ok given) :
    spiRx n s = (.ok (rxBytes n given s.draws), s.drawn.logEvent (.rx (rxBytes n given s.draws))) := by simp [spiRx, h]

theorem spiRx_fail {n k : Nat} {s : State} (h : s.answerAt 0 = .fail k) : spiRx n s = (.fail, s.drawn.logEvent .rxFail) := by
  simp [spiRx, h]

theorem spiRx_hang {n : Nat} {s : State} (h : s.answerAt 0 = .hang) : spiRx n s = (.hang, s.drawn) := by simp [spiRx, h]

/-! ### The write transaction -/

/-- The state after a transaction that ended, before its response: chip-select high again, `calls` answers taken, the events
shown. -/
def State.bracketed (s : State) (calls : Nat) (events : List BusEvent) : State :=
  { s with
    cs := .high
    phase := .idle
    answers := s.answers.drop calls
    draws := s.draws + calls
    trace := s.trace ++ events }

/-- From idle chip-select, an ended transaction and its response leave the state `finished`. -/
theorem State.bracketed_respond {s : State} (hi : s.busIdle = true) (c : Nat) (ev : List BusEvent) (st : Status) (p : Payload) :
    (s.bracketed c ev).respond st p = s.finished c ev st p := by
  obtain ⟨hcs, hph⟩ := State.busIdle_iff.mp hi
  simp [State.bracketed, State.respond, State.finished, ← hcs, ← hph]

theorem memWrite_ok {addr value : Byte} {bs : List Byte} {s : State} (h : s.answerAt 0 = .ok bs) :
    memWrite addr value s = (.ret (), s.bracketed 1 [.csLow, .tx [addr ||| 0x80#8, value], .csHigh]) := by
  rw [memWrite, spiTx_ok (bs := bs) (by simpa using h)]
  simp [State.bracketed, State.drawn, State.logEvent, State.csSet, State.setPhase, writeBytes, writeHeader]

theorem memWrite_fail {addr value : Byte} {k : Nat} {s : State} (h : s.answerAt 0 = .fail k) :
    memWrite addr value s =
      (.raise .eBus, s.bracketed 1 [.csLow, .txFail ([addr ||| 0x80#8, value].take k), .csHigh]) := by
  rw [memWrite, spiTx_fail (k := k) (by simpa using h)]
  simp [State.bracketed, State.drawn, State.logEvent, State.csSet, writeBytes, writeHeader]

theorem memWrite_hang {addr value : Byte} {s : State} (h : s.answerAt 0 = .hang) :
    memWrite addr value s = (.hang, s.stuckIn .selected 1 [.csLow]) := by
  rw [memWrite, spiTx_hang (by simpa using h)]
  simp [State.stuckIn, State.drawn, State.csSet]

/-- Everything a command with one write transaction can do from its entry condition: the frame goes out, or part of it, or the call
never returns (R115, R120). The commit is what the command writes when the write succeeded. -/
theorem writeCommand_cases {addr value : Byte} {commit : State → State} {s t : State}
    (h : writeCommand addr value commit s = .next t) :
    s.busIdle = true ∧
    ((∃ bs, s.answerAt 0 = .ok bs ∧
        t = (commit (s.bracketed 1 [.csLow, .tx [addr ||| 0x80#8, value], .csHigh])).respond .ok .none) ∨
     (∃ k, s.answerAt 0 = .fail k ∧
        t = s.finished 1 [.csLow, .txFail ([addr ||| 0x80#8, value].take k), .csHigh] .eBus .none) ∨
     (s.answerAt 0 = .hang ∧ t = s.stuckIn .selected 1 [.csLow])) := by
  unfold writeCommand at h
  split at h
  · rename_i hi
    cases h
    refine ⟨hi, ?_⟩
    cases ha : s.answerAt 0 with
    | ok bs => exact .inl ⟨bs, rfl, by rw [memWrite_ok ha]; rfl⟩
    | fail k => exact .inr (.inl ⟨k, rfl, by rw [memWrite_fail ha]; exact State.bracketed_respond hi _ _ _ _⟩)
    | hang => exact .inr (.inr ⟨rfl, by rw [memWrite_hang ha]; rfl⟩)
  · cases h

/-! ### The read transaction -/

theorem memReceive_ok {n : Nat} {given : List Byte} {s : State} (h : s.answerAt 0 = .ok given) :
    memReceive n s = (.ret (rxBytes n given s.draws), s.bracketed 1 [.rx (rxBytes n given s.draws), .csHigh]) := by
  rw [memReceive, spiRx_ok h]
  simp [State.bracketed, State.drawn, State.logEvent, State.csSet, State.setPhase]

theorem memReceive_fail {n k : Nat} {s : State} (h : s.answerAt 0 = .fail k) :
    memReceive n s = (.raise .eBus, s.bracketed 1 [.rxFail, .csHigh]) := by
  rw [memReceive, spiRx_fail h]
  simp [State.bracketed, State.drawn, State.logEvent, State.csSet]

theorem memReceive_hang {n : Nat} {s : State} (h : s.answerAt 0 = .hang) : memReceive n s = (.hang, s.drawn) := by
  rw [memReceive, spiRx_hang h]

/-- After the address byte of a read went out. -/
theorem memRead_sent {addr : Byte} {n : Nat} {bs : List Byte} {s : State} (hn : 1 ≤ n) (h : s.answerAt 0 = .ok bs) :
    memRead addr n s = memReceive n (s.stuckIn .sent 1 [.csLow, .tx [addr &&& 0x7F#8]]) := by
  rw [memRead, if_neg (by omega), spiTx_ok (bs := bs) (by simpa using h)]
  simp [State.stuckIn, State.drawn, State.logEvent, State.csSet, State.setPhase, readBytes, readHeader]

theorem State.answerAt_stuckIn (s : State) (p : Phase) (ev : List BusEvent) (k : Nat) :
    (s.stuckIn p 1 ev).answerAt k = s.answerAt (k + 1) := by
  rw [← State.answerAt_drawn]
  simp [State.answerAt, State.stuckIn, State.drawn]

theorem memRead_ok {addr : Byte} {n : Nat} {bs given : List Byte} {s : State} (hn : 1 ≤ n) (h : s.answerAt 0 = .ok bs)
    (h' : s.answerAt 1 = .ok given) :
    memRead addr n s = (.ret (rxBytes n given (s.draws + 1)),
      s.bracketed 2 [.csLow, .tx [addr &&& 0x7F#8], .rx (rxBytes n given (s.draws + 1)), .csHigh]) := by
  rw [memRead_sent hn h, memReceive_ok (given := given) (by rw [State.answerAt_stuckIn]; exact h')]
  simp [State.bracketed, State.stuckIn, Nat.add_assoc]

theorem memRead_txFail {addr : Byte} {n k : Nat} {s : State} (hn : 1 ≤ n) (h : s.answerAt 0 = .fail k) :
    memRead addr n s = (.raise .eBus, s.bracketed 1 [.csLow, .txFail ([addr &&& 0x7F#8].take k), .csHigh]) := by
  rw [memRead, if_neg (by omega), spiTx_fail (k := k) (by simpa using h)]
  simp [State.bracketed, State.drawn, State.logEvent, State.csSet, readBytes, readHeader]

theorem memRead_rxFail {addr : Byte} {n k : Nat} {bs : List Byte} {s : State} (hn : 1 ≤ n) (h : s.answerAt 0 = .ok bs)
    (h' : s.answerAt 1 = .fail k) :
    memRead addr n s = (.raise .eBus, s.bracketed 2 [.csLow, .tx [addr &&& 0x7F#8], .rxFail, .csHigh]) := by
  rw [memRead_sent hn h, memReceive_fail (k := k) (by rw [State.answerAt_stuckIn]; exact h')]
  simp [State.bracketed, State.stuckIn, Nat.add_assoc]

theorem memRead_txHang {addr : Byte} {n : Nat} {s : State} (hn : 1 ≤ n) (h : s.answerAt 0 = .hang) :
    memRead addr n s = (.hang, s.stuckIn .selected 1 [.csLow]) := by
  rw [memRead, if_neg (by omega), spiTx_hang (by simpa using h)]
  simp [State.stuckIn, State.drawn, State.csSet]

theorem memRead_rxHang {addr : Byte} {n : Nat} {bs : List Byte} {s : State} (hn : 1 ≤ n) (h : s.answerAt 0 = .ok bs)
    (h' : s.answerAt 1 = .hang) :
    memRead addr n s = (.hang, s.stuckIn .sent 2 [.csLow, .tx [addr &&& 0x7F#8]]) := by
  rw [memRead_sent hn h, memReceive_hang (by rw [State.answerAt_stuckIn]; exact h')]
  simp [State.stuckIn, State.drawn, Nat.add_assoc, -List.drop_one]

/-- Everything a command with one read transaction can do: the length is refused before any event, or, from the entry condition, the
bytes arrive, one of the two calls fails, or one of them never returns (R117, R118, R120). -/
theorem readCommand_cases {addr : Byte} {n : Nat} {payload : List Byte → Payload} {s t : State}
    (h : readCommand addr n payload s = .next t) :
    (n = 0 ∧ t = s.finished 0 [] .eLength .none) ∨
    (1 ≤ n ∧ s.busIdle = true ∧
      ((∃ bs given, s.answerAt 0 = .ok bs ∧ s.answerAt 1 = .ok given ∧
          t = s.finished 2 [.csLow, .tx [addr &&& 0x7F#8], .rx (rxBytes n given (s.draws + 1)), .csHigh] .ok
            (payload (rxBytes n given (s.draws + 1)))) ∨
       (∃ k, s.answerAt 0 = .fail k ∧
          t = s.finished 1 [.csLow, .txFail ([addr &&& 0x7F#8].take k), .csHigh] .eBus .none) ∨
       (∃ bs k, s.answerAt 0 = .ok bs ∧ s.answerAt 1 = .fail k ∧
          t = s.finished 2 [.csLow, .tx [addr &&& 0x7F#8], .rxFail, .csHigh] .eBus .none) ∨
       (s.answerAt 0 = .hang ∧ t = s.stuckIn .selected 1 [.csLow]) ∨
       (∃ bs, s.answerAt 0 = .ok bs ∧ s.answerAt 1 = .hang ∧
          t = s.stuckIn .sent 2 [.csLow, .tx [addr &&& 0x7F#8]]))) := by
  unfold readCommand at h
  split at h
  · rename_i hor
    cases h
    by_cases hn : n < 1
    · exact .inl ⟨by omega, by simp [memRead, hn, finish, State.raise_eq_finished]⟩
    · have hn' : 1 ≤ n := by omega
      have hi : s.busIdle = true := by simpa [hn] using hor
      refine .inr ⟨hn', hi, ?_⟩
      cases ha : s.answerAt 0 with
      | ok bs =>
        cases hb : s.answerAt 1 with
        | ok given =>
          exact .inl ⟨bs, given, rfl, rfl, by rw [memRead_ok hn' ha hb]; exact State.bracketed_respond hi _ _ _ _⟩
        | fail k =>
          exact .inr (.inr (.inl ⟨bs, k, rfl, rfl, by rw [memRead_rxFail hn' ha hb]; exact State.bracketed_respond hi _ _ _ _⟩))
        | hang => exact .inr (.inr (.inr (.inr ⟨bs, rfl, rfl, by rw [memRead_rxHang hn' ha hb]; rfl⟩)))
      | fail k =>
        exact .inr (.inl ⟨k, rfl, by rw [memRead_txFail hn' ha]; exact State.bracketed_respond hi _ _ _ _⟩)
      | hang => exact .inr (.inr (.inr (.inl ⟨rfl, by rw [memRead_txHang hn' ha]; rfl⟩)))
  · cases h

/-! ### The two command shapes, outcome by outcome -/

theorem writeCommand_ok {addr value : Byte} {commit : State → State} {bs : List Byte} {s : State} (hi : s.busIdle = true)
    (h : s.answerAt 0 = .ok bs) :
    writeCommand addr value commit s =
      .next ((commit (s.bracketed 1 [.csLow, .tx [addr ||| 0x80#8, value], .csHigh])).respond .ok .none) := by
  rw [writeCommand, if_pos hi, memWrite_ok h]; rfl

theorem writeCommand_fail {addr value : Byte} {commit : State → State} {k : Nat} {s : State} (hi : s.busIdle = true)
    (h : s.answerAt 0 = .fail k) :
    writeCommand addr value commit s =
      .next (s.finished 1 [.csLow, .txFail ([addr ||| 0x80#8, value].take k), .csHigh] .eBus .none) := by
  rw [writeCommand, if_pos hi, memWrite_fail h, ← State.bracketed_respond hi]; rfl

theorem writeCommand_hang {addr value : Byte} {commit : State → State} {s : State} (hi : s.busIdle = true)
    (h : s.answerAt 0 = .hang) : writeCommand addr value commit s = .next (s.stuckIn .selected 1 [.csLow]) := by
  rw [writeCommand, if_pos hi, memWrite_hang h]; rfl

theorem readCommand_length {addr : Byte} {payload : List Byte → Payload} {s : State} :
    readCommand addr 0 payload s = .next (s.finished 0 [] .eLength .none) := by
  simp [readCommand, memRead, finish, State.raise_eq_finished]

theorem readCommand_ok {addr : Byte} {n : Nat} {payload : List Byte → Payload} {bs given : List Byte} {s : State} (hn : 1 ≤ n)
    (hi : s.busIdle = true) (h : s.answerAt 0 = .ok bs) (h' : s.answerAt 1 = .ok given) :
    readCommand addr n payload s =
      .next (s.finished 2 [.csLow, .tx [addr &&& 0x7F#8], .rx (rxBytes n given (s.draws + 1)), .csHigh] .ok
        (payload (rxBytes n given (s.draws + 1)))) := by
  rw [readCommand, if_pos (by simp [hi]), memRead_ok hn h h', ← State.bracketed_respond hi]; rfl

theorem readCommand_txFail {addr : Byte} {n k : Nat} {payload : List Byte → Payload} {s : State} (hn : 1 ≤ n)
    (hi : s.busIdle = true) (h : s.answerAt 0 = .fail k) :
    readCommand addr n payload s =
      .next (s.finished 1 [.csLow, .txFail ([addr &&& 0x7F#8].take k), .csHigh] .eBus .none) := by
  rw [readCommand, if_pos (by simp [hi]), memRead_txFail hn h, ← State.bracketed_respond hi]; rfl

theorem readCommand_rxFail {addr : Byte} {n k : Nat} {payload : List Byte → Payload} {bs : List Byte} {s : State} (hn : 1 ≤ n)
    (hi : s.busIdle = true) (h : s.answerAt 0 = .ok bs) (h' : s.answerAt 1 = .fail k) :
    readCommand addr n payload s = .next (s.finished 2 [.csLow, .tx [addr &&& 0x7F#8], .rxFail, .csHigh] .eBus .none) := by
  rw [readCommand, if_pos (by simp [hi]), memRead_rxFail hn h h', ← State.bracketed_respond hi]; rfl

theorem readCommand_txHang {addr : Byte} {n : Nat} {payload : List Byte → Payload} {s : State} (hn : 1 ≤ n)
    (hi : s.busIdle = true) (h : s.answerAt 0 = .hang) :
    readCommand addr n payload s = .next (s.stuckIn .selected 1 [.csLow]) := by
  rw [readCommand, if_pos (by simp [hi]), memRead_txHang hn h]; rfl

theorem readCommand_rxHang {addr : Byte} {n : Nat} {payload : List Byte → Payload} {bs : List Byte} {s : State} (hn : 1 ≤ n)
    (hi : s.busIdle = true) (h : s.answerAt 0 = .ok bs) (h' : s.answerAt 1 = .hang) :
    readCommand addr n payload s = .next (s.stuckIn .sent 2 [.csLow, .tx [addr &&& 0x7F#8]]) := by
  rw [readCommand, if_pos (by simp [hi]), memRead_rxHang hn h h']; rfl

/-- From the entry condition a write command answers a next state. -/
theorem writeCommand_completes {addr value : Byte} {commit : State → State} {s : State} (hi : s.busIdle = true) :
    ∃ t, writeCommand addr value commit s = .next t := by
  simp [writeCommand, hi]

/-- From the entry condition a read command answers a next state. -/
theorem readCommand_completes {addr : Byte} {n : Nat} {payload : List Byte → Payload} {s : State} (hi : s.busIdle = true) :
    ∃ t, readCommand addr n payload s = .next t := by
  simp [readCommand, hi]

/-- Outside the entry condition a transaction is refused (R122, D17). -/
theorem writeCommand_refuses {addr value : Byte} {commit : State → State} {s : State} (hi : s.busIdle = false) :
    writeCommand addr value commit s = .refused .transactionNotIdle := by
  simp [writeCommand, hi]

theorem readCommand_refuses {addr : Byte} {n : Nat} {payload : List Byte → Payload} {s : State} (hn : 1 ≤ n)
    (hi : s.busIdle = false) : readCommand addr n payload s = .refused .transactionNotIdle := by
  have : ¬ n < 1 := by omega
  simp [readCommand, hi, this]

end Sys2Proof.Machine
end

