-- ==== Sys2Proof/Laws/Exec.lean ====
section
/-! SUPPORT. What one instruction can do, said once: every next state of `exec` has one of nine shapes. -/

namespace Sys2Proof.Machine

/-- `i` writes a register, in one write transaction to the address operand `addr` with the data byte `value`. -/
inductive Writes : Instr → Byte → Byte → Prop
  | xwr (addr value : Byte) : Writes (.xwr addr value) addr value
  | wframe (a : BitVec 7) (d : Byte) : Writes (.wframe a d) (frameAddr a) d
  | init (mode : BitVec 2) (ur un : Bool) (m : WMode) (hm : wmodeOfField mode = some m) :
      Writes (.init mode ur un) configAddr (cfg m)

/-- `i` reads registers, in one read transaction of `n` bytes (`len` is the length on the port) from the address operand `addr`. -/
inductive Reads (len : Nat) : Instr → Byte → Nat → Prop
  | xrd (addr : Byte) (n : Nat) : Reads len (.xrd addr n) addr n
  | rframe (a : BitVec 7) : Reads len (.rframe a) (frameAddr a) len
  | rdraw : Reads len .rdraw rtdAddr rtdLength
  | rdres (ur : Bool) : Reads len (.rdres ur) rtdAddr rtdLength
  | rdtmp (ur un : Bool) : Reads len (.rdtmp ur un) rtdAddr rtdLength

/-- The shapes of a next state of `exec i s`. -/
inductive ExecShape (i : Instr) (s : State) : State → Prop
  /-- Rejected before any bus event. -/
  | rejected (e : Status) (he : e = .eState ∨ e = .eParam ∨ e = .eLength) (hm : mayReport i e = true) :
      ExecShape i s (s.finished 0 [] e .none)
  /-- `DEINIT`. -/
  | deinit (hi : i = .deinit) : ExecShape i s (s.unconfigure.finished 0 [] .ok .none)
  /-- An `INIT` whose write succeeded. -/
  | configured (mode : BitVec 2) (ur un : Bool) (m : WMode) (R N : Rat) (bs : List Byte) (hi : i = .init mode ur un)
      (hd : s.dstate = .unconfigured) (hb : s.busIdle = true) (hR : 0 < R) (hN : 0 < N) (ha : s.answerAt 0 = .ok bs) :
      ExecShape i s ((s.configure m R N).finished 1 [.csLow, .tx [0x80#8, cfg m], .csHigh] .ok .none)
  /-- Another write that succeeded. -/
  | wrote (addr value : Byte) (bs : List Byte) (hw : Writes i addr value) (hl : leavesHandle i = true) (hb : s.busIdle = true)
      (ha : s.answerAt 0 = .ok bs) : ExecShape i s (s.finished 1 [.csLow, .tx [addr ||| 0x80#8, value], .csHigh] .ok .none)
  /-- A read that succeeded. -/
  | read (addr : Byte) (n : Nat) (bs given : List Byte) (p : Payload) (hr : Reads s.argLen i addr n) (hn : 1 ≤ n)
      (hb : s.busIdle = true) (ha : s.answerAt 0 = .ok bs) (ha' : s.answerAt 1 = .ok given)
      (hp : payloadFits i s.argLen p = true) :
      ExecShape i s
        (s.finished 2 [.csLow, .tx [addr &&& 0x7F#8], .rx (rxBytes n given (s.draws + 1)), .csHigh] .ok p)
  /-- A transmit that failed. -/
  | txFailed (part : List Byte) (k : Nat) (hb : s.busIdle = true) (ha : s.answerAt 0 = .fail k)
      (hm : mayReport i .eBus = true) : ExecShape i s (s.finished 1 [.csLow, .txFail part, .csHigh] .eBus .none)
  /-- A receive that failed. -/
  | rxFailed (addr : Byte) (n k : Nat) (bs : List Byte) (hr : Reads s.argLen i addr n) (hn : 1 ≤ n) (hb : s.busIdle = true)
      (ha : s.answerAt 0 = .ok bs) (ha' : s.answerAt 1 = .fail k) (hm : mayReport i .eBus = true) :
      ExecShape i s (s.finished 2 [.csLow, .tx [addr &&& 0x7F#8], .rxFail, .csHigh] .eBus .none)
  /-- A transmit that never returns. -/
  | txHangs (hb : s.busIdle = true) (ha : s.answerAt 0 = .hang) : ExecShape i s (s.stuckIn .selected 1 [.csLow])
  /-- A receive that never returns. -/
  | rxHangs (addr : Byte) (n : Nat) (bs : List Byte) (hr : Reads s.argLen i addr n) (hn : 1 ≤ n) (hb : s.busIdle = true)
      (ha : s.answerAt 0 = .ok bs) (ha' : s.answerAt 1 = .hang) :
      ExecShape i s (s.stuckIn .sent 2 [.csLow, .tx [addr &&& 0x7F#8]])

/-- A write command of `i` has one of the shapes. -/
theorem writeCommand_shape {i : Instr} {addr value : Byte} {s t : State} (hw : Writes i addr value)
    (hl : leavesHandle i = true) (hm : mayReport i .eBus = true)
    (h : writeCommand addr value (fun u => u) s = .next t) : ExecShape i s t := by
  obtain ⟨hb, ⟨bs, ha, rfl⟩ | ⟨k, ha, rfl⟩ | ⟨ha, rfl⟩⟩ := writeCommand_cases h
  · rw [State.bracketed_respond hb]; exact .wrote addr value bs hw hl hb ha
  · exact .txFailed _ k hb ha hm
  · exact .txHangs hb ha

/-- A read command of `i` has one of the shapes. -/
theorem readCommand_shape {i : Instr} {addr : Byte} {n : Nat} {payload : List Byte → Payload} {s t : State}
    (hr : Reads s.argLen i addr n) (hp : ∀ bs : List Byte, bs.length = n → payloadFits i s.argLen (payload bs) = true)
    (hm : mayReport i .eBus = true) (he : n = 0 → mayReport i .eLength = true)
    (h : readCommand addr n payload s = .next t) : ExecShape i s t := by
  obtain ⟨h0, rfl⟩ | ⟨hn, hb, h⟩ := readCommand_cases h
  · exact .rejected .eLength (.inr (.inr rfl)) (he h0)
  · obtain ⟨bs, given, ha, ha', rfl⟩ | ⟨k, ha, rfl⟩ | ⟨bs, k, ha, ha', rfl⟩ | ⟨ha, rfl⟩ | ⟨bs, ha, ha', rfl⟩ := h
    · exact .read addr n bs given _ hr hn hb ha ha' (hp _ (rxBytes_length _ _ _))
    · exact .txFailed _ k hb ha hm
    · exact .rxFailed addr n k bs hr hn hb ha ha' hm
    · exact .txHangs hb ha
    · exact .rxHangs addr n bs hr hn hb ha ha'

/-- A raw code is at most 32767 (R164). -/
theorem rawCode_le (b0 b1 : Byte) : (rawCode b0 b1).toNat ≤ 32767 := by
  have := (rtdPair b0 b1).isLt
  rw [rawCode, BitVec.toNat_ushiftRight, Nat.shiftRight_eq_div_pow]
  omega

/-- What `positive` lets through is positive. -/
theorem positive_pos {o : Option Rat} {q : Rat} (h : positive o = some q) : o = some q ∧ 0 < q := by
  unfold positive at h
  split at h
  · split at h
    · cases h; exact ⟨rfl, ‹_›⟩
    · cases h
  · cases h

theorem execInit_shape {mode : BitVec 2} {ur un : Bool} {s t : State} (h : execInit mode ur un s = .next t) :
    ExecShape (.init mode ur un) s t := by
  have hrej : ∀ e, e = .eState ∨ e = .eParam → ExecShape (.init mode ur un) s (s.raise e) := fun e he => by
    rw [State.raise_eq_finished]
    exact .rejected e (by tauto) (by rcases he with rfl | rfl <;> rfl)
  unfold execInit at h
  split at h
  · cases h; exact hrej _ (.inl rfl)
  rename_i hd
  have hd : s.dstate = .unconfigured := by cases hs : s.dstate <;> simp_all
  split at h
  · cases h; exact hrej _ (.inr rfl)
  rename_i m hm
  split at h
  · cases h; exact hrej _ (.inr rfl)
  rename_i R hR
  split at h
  · cases h; exact hrej _ (.inr rfl)
  rename_i N hN
  obtain ⟨hb, ⟨bs, ha, rfl⟩ | ⟨k, ha, rfl⟩ | ⟨ha, rfl⟩⟩ := writeCommand_cases h
  · have := ExecShape.configured (i := .init mode ur un) (s := s) mode ur un m R N bs rfl hd hb (positive_pos hR).2
      (positive_pos hN).2 ha
    rw [← State.bracketed_respond (s := s.configure m R N) hb] at this
    exact this
  · exact .txFailed _ k hb ha rfl
  · exact .txHangs hb ha

theorem execRdraw_shape {s t : State} (h : execRdraw s = .next t) : ExecShape .rdraw s t := by
  unfold execRdraw at h
  split at h
  · exact readCommand_shape .rdraw (fun bs _ => by simp [payloadFits]; exact rawCode_le _ _) rfl (by decide) h
  · cases h; rw [State.raise_eq_finished]; exact .rejected _ (.inl rfl) rfl

theorem execRdres_shape {ur : Bool} {s t : State} (h : execRdres ur s = .next t) : ExecShape (.rdres ur) s t := by
  unfold execRdres at h
  split at h
  · split at h
    · cases h; rw [State.raise_eq_finished]; exact .rejected _ (.inr (.inl rfl)) rfl
    · split at h
      · cases h
      · exact readCommand_shape (.rdres ur) (fun _ _ => rfl) rfl (fun h0 => absurd h0 (by decide)) h
  · cases h; rw [State.raise_eq_finished]; exact .rejected _ (.inl rfl) rfl

theorem execRdtmp_shape {ur un : Bool} {s t : State} (h : execRdtmp ur un s = .next t) : ExecShape (.rdtmp ur un) s t := by
  unfold execRdtmp at h
  split at h
  · split at h
    · cases h; rw [State.raise_eq_finished]; exact .rejected _ (.inr (.inl rfl)) rfl
    · split at h
      · cases h; rw [State.raise_eq_finished]; exact .rejected _ (.inr (.inl rfl)) rfl
      · split at h
        · exact readCommand_shape (.rdtmp ur un) (fun _ _ => rfl) rfl (fun h0 => absurd h0 (by decide)) h
        · cases h
        · cases h
        · cases h
  · cases h; rw [State.raise_eq_finished]; exact .rejected _ (.inl rfl) rfl

/-- Every next state of `exec` has one of the nine shapes. -/
theorem exec_shape {i : Instr} {s t : State} (h : exec i s = .next t) : ExecShape i s t := by
  cases i with
  | xwr addr value => exact writeCommand_shape (.xwr addr value) rfl rfl h
  | xrd addr n => exact readCommand_shape (payload := fun bs => .bytes bs) (.xrd addr n) (fun bs hbs => decide_eq_true hbs) rfl (fun _ => rfl) h
  | init mode ur un => exact execInit_shape h
  | rdraw => exact execRdraw_shape h
  | rdres ur => exact execRdres_shape h
  | rdtmp ur un => exact execRdtmp_shape h
  | deinit =>
    cases h
    have := ExecShape.deinit (i := .deinit) (s := s) rfl
    simpa [State.finished, State.respond] using this
  | wframe a d => exact writeCommand_shape (.wframe a d) rfl rfl h
  | rframe a => exact readCommand_shape (payload := fun bs => .bytes bs) (.rframe a) (fun bs hbs => decide_eq_true hbs) rfl (fun _ => rfl) h

/-- What `positive` does not let through. -/
theorem positive_isNone {flag : Bool} {arg held : Option Rat} (h : resistanceReady flag arg held = false) :
    positive (selected flag arg held) = none := by
  simpa [resistanceReady] using h

theorem positive_isSome {flag : Bool} {arg held : Option Rat} (h : resistanceReady flag arg held = true) :
    ∃ q, positive (selected flag arg held) = some q :=
  Option.isSome_iff_exists.mp h

/-- An override that is ready is not bad. -/
theorem overrideBad_of_ready {flag : Bool} {arg held : Option Rat} (h : resistanceReady flag arg held = true) :
    overrideBad flag arg = false := by
  cases flag
  · rfl
  · simpa [overrideBad, resistanceReady, selected, ← Option.isSome_iff_ne_none] using h

/-- A mode field names a wiring mode unless it is `0b11`. -/
theorem wmodeOfField_eq_none {mode : BitVec 2} : wmodeOfField mode = none ↔ mode = 0b11#2 := by
  revert mode; decide

/-- An instruction that passes its checks is its transaction, a write or a read of at least one byte. -/
theorem exec_of_starts {i : Instr} {s : State} (h : startsTransaction i s = true) :
    (∃ addr value commit, readHeaderOf i = none ∧ exec i s = writeCommand addr value commit s) ∨
      (∃ addr n payload, 1 ≤ n ∧ readHeaderOf i = some (addr &&& 0x7F#8) ∧ exec i s = readCommand addr n payload s) := by
  cases i with
  | xwr addr value => exact .inl ⟨_, _, _, rfl, rfl⟩
  | wframe a d => exact .inl ⟨_, _, _, rfl, rfl⟩
  | xrd addr n => exact .inr ⟨addr, n, _, of_decide_eq_true h, rfl, rfl⟩
  | rframe a =>
    refine .inr ⟨frameAddr a, s.argLen, _, of_decide_eq_true h, ?_, rfl⟩
    clear h; revert a; decide
  | init mode ur un =>
    simp only [startsTransaction, Bool.and_eq_true, decide_eq_true_eq] at h
    obtain ⟨⟨⟨hd, hm⟩, hr⟩, hn⟩ := h
    obtain ⟨R, hR⟩ := positive_isSome hr
    obtain ⟨N, hN⟩ := positive_isSome hn
    obtain ⟨m, hm⟩ := Option.ne_none_iff_exists'.mp (mt wmodeOfField_eq_none.mp hm)
    exact .inl ⟨configAddr, cfg m, fun t => t.configure m R N, rfl, by simp [exec, execInit, hd, hm, hR, hN]⟩
  | rdraw =>
    have hd : s.dstate = .configured := of_decide_eq_true h
    exact .inr ⟨rtdAddr, rtdLength, fun bs => .raw (rawOfBytes bs), by decide, rfl, by simp [exec, execRdraw, hd, rawRead]⟩
  | rdres ur =>
    simp only [startsTransaction, Bool.and_eq_true, decide_eq_true_eq] at h
    obtain ⟨hd, hr⟩ := h
    obtain ⟨R, hR⟩ := positive_isSome hr
    exact .inr ⟨rtdAddr, rtdLength, fun bs => .value (resistance (rawOfBytes bs).toNat R), by decide, rfl,
      by simp [exec, execRdres, hd, hR, overrideBad_of_ready hr, rawRead]⟩
  | rdtmp ur un =>
    simp only [startsTransaction, Bool.and_eq_true, decide_eq_true_eq] at h
    obtain ⟨⟨hd, hr⟩, hn⟩ := h
    obtain ⟨R, hR⟩ := positive_isSome hr
    obtain ⟨N, hN⟩ := positive_isSome hn
    exact .inr ⟨rtdAddr, rtdLength, fun bs => .value (temperature (resistance (rawOfBytes bs).toNat R) N), by decide, rfl,
      by simp [exec, execRdtmp, hd, hR, hN, overrideBad_of_ready hr, overrideBad_of_ready hn, rawRead]⟩
  | deinit => cases h

/-- An instruction that does not reach its transaction answers with no bus event, or faults; it is never refused. -/
theorem exec_of_not_starts {i : Instr} {s : State} (h : startsTransaction i s = false) :
    (∃ e, exec i s = .next (s.finished 0 [] e .none)) ∨ (∃ f, exec i s = .fault f) ∨ i = .deinit := by
  have hrej : ∀ e, exec i s = .next (s.raise e) → ∃ e, exec i s = .next (s.finished 0 [] e .none) :=
    fun e he => ⟨e, by rw [he, State.raise_eq_finished]⟩
  cases i with
  | xwr addr value => cases h
  | wframe a d => cases h
  | xrd addr n =>
    obtain rfl : n = 0 := by simpa [startsTransaction] using h
    exact .inl ⟨_, readCommand_length⟩
  | rframe a =>
    have h0 : s.argLen = 0 := by simpa [startsTransaction] using h
    refine .inl ⟨.eLength, ?_⟩
    show readCommand _ _ _ _ = _
    rw [h0]; exact readCommand_length
  | init mode ur un =>
    simp only [exec, execInit] at hrej ⊢
    split
    · exact .inl ⟨_, by rw [State.raise_eq_finished]⟩
    · rename_i hd
      have hd : s.dstate = .unconfigured := by cases hs : s.dstate <;> simp_all
      cases hm : wmodeOfField mode with
      | none => exact .inl ⟨_, by rw [State.raise_eq_finished]⟩
      | some m =>
        have hm' : mode ≠ 0b11#2 := fun he => by rw [wmodeOfField_eq_none.mpr he] at hm; cases hm
        cases hR : positive (selected ur s.argR (some rrefDefault)) with
        | none => exact .inl ⟨_, by rw [State.raise_eq_finished]⟩
        | some R =>
          cases hN : positive (selected un s.argN (some rnomDefault)) with
          | none => exact .inl ⟨_, by rw [State.raise_eq_finished]⟩
          | some N => simp [startsTransaction, hd, hm', resistanceReady, hR, hN] at h
  | rdraw =>
    have hd : s.dstate ≠ .configured := of_decide_eq_false h
    exact .inl (hrej .eState (by simp [exec, execRdraw, hd]))
  | rdres ur =>
    simp only [exec, execRdres]
    split
    · rename_i hd
      split
      · exact .inl ⟨_, by rw [State.raise_eq_finished]⟩
      · have hr : resistanceReady ur s.argR s.rref = false := by simpa [startsTransaction, hd] using h
        rw [positive_isNone hr]; exact .inr (.inl ⟨_, rfl⟩)
    · exact .inl ⟨_, by rw [State.raise_eq_finished]⟩
  | rdtmp ur un =>
    simp only [exec, execRdtmp]
    split
    · rename_i hd
      split
      · exact .inl ⟨_, by rw [State.raise_eq_finished]⟩
      split
      · exact .inl ⟨_, by rw [State.raise_eq_finished]⟩
      split
      · rename_i hR hN
        simp [startsTransaction, hd, resistanceReady, hR, hN] at h
      all_goals exact .inr (.inl ⟨_, rfl⟩)
    · exact .inl ⟨_, by rw [State.raise_eq_finished]⟩
  | deinit => exact .inr (.inr rfl)

/-- A step answers a next state only by waiting, resetting, running an instruction or answering an illegal word. -/
theorem step_cases {s t : State} (h : step s = .next t) :
    (fetch s = .wait ∧ t = s) ∨ (∃ u, fetch s = .reset u ∧ t = u.blockReset) ∨
      (∃ i u, fetch s = .run i u ∧ exec i u = .next t) ∨ (∃ u, fetch s = .illegal u ∧ t = u.raise .eIllegal) := by
  unfold step at h
  cases hf : fetch s with
  | wait => rw [hf] at h; cases h; exact .inl ⟨rfl, rfl⟩
  | reset u => rw [hf] at h; cases h; exact .inr (.inl ⟨u, rfl, rfl⟩)
  | run i u => rw [hf] at h; exact .inr (.inr (.inl ⟨i, u, rfl, h⟩))
  | illegal u => rw [hf] at h; cases h; exact .inr (.inr (.inr ⟨u, rfl, rfl⟩))
  | stop r => rw [hf] at h; cases h

/-- Taking the host's next event changes only the coming events and the operands on the port; an instruction or an illegal word is
taken only in phase IDLE. -/
theorem fetch_frame {s u : State} (h : fetch s = .reset u ∨ (∃ i, fetch s = .run i u) ∨ fetch s = .illegal u) :
    u = { s with inbox := u.inbox, argR := u.argR, argN := u.argN, argLen := u.argLen } ∧
      (fetch s ≠ .reset u → s.phase = .idle) := by
  unfold fetch at h ⊢
  by_cases hp : s.phase = .idle
  · simp only [hp, if_true, fetchIdle, fetchCommand, fetchFrame] at h ⊢
    refine ⟨?_, fun _ => trivial⟩
    split at h
    · simp at h
    · simp at h; subst h; simp
    · split at h <;> simp at h
      · obtain ⟨-, rfl⟩ := h; simp [State.acceptCommand, hp]
      · subst h; simp [State.acceptCommand, hp]
    · split at h <;> simp at h
      obtain ⟨-, rfl⟩ := h; simp [State.acceptFrame, hp]
  · simp only [hp, if_false, fetchBusy] at h ⊢
    split at h <;> simp at h
    subst h
    rename_i hm
    simp [hm]

end Sys2Proof.Machine
end

