-- ==== Sys2Proof/Laws/PerInstr.lean ====
section
/-! SUPPORT. One statement per instruction: its encoding carries the fixed bits of its row of spec/opcode_table.json. -/

namespace Sys2Proof.Laws

/-- The mask of a command's row (R89); a frame row has none here, its flag is bit 7 of its first byte. -/
def rowMask : Instr → CommandWord
  | .xwr _ _ | .xrd _ _ => 0xFF0000FF#32
  | .init _ _ _ => 0xFFFCFCFF#32
  | .rdraw | .deinit => 0xFFFFFFFF#32
  | .rdres _ => 0xFFFFFEFF#32
  | .rdtmp _ _ => 0xFFFFFCFF#32
  | .wframe _ _ | .rframe _ => 0#32

/-- The match of a command's row (R89). -/
def rowMatch : Instr → CommandWord
  | .xwr _ _ => 0x01000000#32
  | .xrd _ _ => 0x02000000#32
  | .init _ _ _ => 0x10000000#32
  | .rdraw => 0x11000000#32
  | .rdres _ => 0x12000000#32
  | .rdtmp _ _ => 0x13000000#32
  | .deinit => 0x1F000000#32
  | .wframe _ _ | .rframe _ => 0#32

/-- The fixed flag of a frame row: the number of bytes sent and bit 7 of the first (R81, R82); `none` for a command. -/
def rowFlag : Instr → Option (Nat × Bool)
  | .wframe _ _ => some (2, true)
  | .rframe _ => some (1, false)
  | .xwr _ _ | .xrd _ _ | .init _ _ _ | .rdraw | .rdres _ | .rdtmp _ _ | .deinit => none

/-- The encoding of `i` carries its row's fixed bits. -/
def FixedBits.Statement (i : Instr) : Prop :=
  match encode i with
  | .command w => rowFlag i = none ∧ w &&& rowMask i = rowMatch i
  | .frame sent => rowFlag i = some (sent.length, (sent.getD 0 0#8).getLsbD 7)

theorem FixedBits.xwr (addr value : Byte) : FixedBits.Statement (.xwr addr value) := by
  refine ⟨rfl, ?_⟩
  rw [show rowMask _ = commandWord 0xFF#8 0x00#8 0x00#8 0xFF#8 by rfl, commandWord_and]
  simp; rfl

theorem FixedBits.xrd (addr : Byte) (length : Nat) : FixedBits.Statement (.xrd addr length) := by
  refine ⟨rfl, ?_⟩
  rw [show rowMask _ = commandWord 0xFF#8 0x00#8 0x00#8 0xFF#8 by rfl, commandWord_and]
  simp; rfl

theorem FixedBits.init (mode : BitVec 2) (ur un : Bool) : FixedBits.Statement (.init mode ur un) := by
  refine ⟨rfl, ?_⟩
  revert mode ur un; decide

theorem FixedBits.rdraw : FixedBits.Statement .rdraw := ⟨rfl, by decide⟩

theorem FixedBits.rdres (ur : Bool) : FixedBits.Statement (.rdres ur) :=
  ⟨rfl, by revert ur; decide⟩

theorem FixedBits.rdtmp (ur un : Bool) : FixedBits.Statement (.rdtmp ur un) :=
  ⟨rfl, by revert ur un; decide⟩

theorem FixedBits.deinit : FixedBits.Statement .deinit := ⟨rfl, by decide⟩

theorem FixedBits.wframe (a : BitVec 7) (d : Byte) : FixedBits.Statement (.wframe a d) := by
  have : ((1#1 ++ a : Byte)).getLsbD 7 = true := by revert a; decide
  simp [FixedBits.Statement, encode, rowFlag, this]

theorem FixedBits.rframe (a : BitVec 7) : FixedBits.Statement (.rframe a) := by
  have : ((0#1 ++ a : Byte)).getLsbD 7 = false := by revert a; decide
  show some (1, false) = some (1, (0#1 ++ a : Byte).getLsbD 7)
  rw [this]

end Sys2Proof.Laws
end

