-- ==== Sys2Proof/Tests/Slice0.lean ====
section
/-! SUPPORT. The model's own tests: expected values from spec/95_test_vectors.md or written out from spec/30_encoding.md; and, for each
statement of Certificates/Slice0/Obligations.lean that has hypotheses, named theorems that meet them. -/

namespace Sys2Proof.Tests

open Sys2Proof.Machine

/-! ### Well-formedness -/

/-- R90: the length of `XRD` has 8 bits; 256 does not fit. -/
theorem test_wellFormed_refuses_long_read : (Instr.xrd 0x01#8 256).wellFormed = false := by decide

theorem test_wellFormed_longest_read : (Instr.xrd 0x01#8 255).wellFormed = true := by decide

/-! ### Decoding: words written out from the encodings (95_test_vectors 2.1) -/

/-- 00000001 00000000 11010010 00000000. -/
theorem test_decode_xwr : decodeWord 0b00000001000000001101001000000000#32 = .ok (.xwr 0x00#8 0xD2#8) := by rfl

/-- Bit 7 of the address set: legal. -/
theorem test_decode_xwr_bit7 : decodeWord 0x01805500#32 = .ok (.xwr 0x80#8 0x55#8) := by rfl

/-- 00000010 01111111 11111111 00000000: the longest read. -/
theorem test_decode_xrd : decodeWord 0b00000010011111111111111100000000#32 = .ok (.xrd 0x7F#8 255) := by rfl

/-- 00010000 00000010 00000001 00000000: INIT W4 with UR. -/
theorem test_decode_init : decodeWord 0b00010000000000100000000100000000#32 = .ok (.init 0b10#2 true false) := by rfl

theorem test_decode_init_mode3 : decodeWord 0x10030000#32 = .ok (.init 0b11#2 false false) := by rfl

theorem test_decode_rdraw : decodeWord 0b00010001000000000000000000000000#32 = .ok .rdraw := by rfl

theorem test_decode_rdres : decodeWord 0b00010010000000000000000100000000#32 = .ok (.rdres true) := by rfl

/-- 00010011 00000000 00000010 00000000: UN alone. -/
theorem test_decode_rdtmp : decodeWord 0b00010011000000000000001000000000#32 = .ok (.rdtmp false true) := by rfl

theorem test_decode_deinit : decodeWord 0b00011111000000000000000000000000#32 = .ok .deinit := by rfl

/-- 1 0000011, 01111111: the write frame of P4 step 1. -/
theorem test_decode_wframe : decodeFrame [0b10000011#8, 0b01111111#8] = .ok (.wframe 0b0000011#7 0x7F#8) := by rfl

theorem test_decode_rframe : decodeFrame [0b00000001#8] = .ok (.rframe 0b0000001#7) := by rfl

theorem test_decode_illegal_c : decodeWord 0x0100D201#32 = .error .reservedC := by rfl

theorem test_decode_illegal_a : decodeWord 0x10040000#32 = .error .reservedA := by rfl

theorem test_decode_illegal_b : decodeWord 0x12000200#32 = .error .reservedB := by rfl

theorem test_decode_illegal_op : decodeWord 0x03000000#32 = .error .unknownOp := by rfl

theorem test_decode_illegal_frame : decodeFrame [0x80#8] = .error .notAFrame := by rfl

/-- The table numbers a frame's flag as its highest bit. -/
theorem test_tableWord_wframe : decodeTableWord 16 0x837F = some (.wframe 0x03#7 0x7F#8) := by rfl

theorem test_tableWord_rframe : decodeTableWord 8 0x01 = some (.rframe 0x01#7) := by rfl

theorem test_tableWord_init : decodeTableWord 32 0x10010000 = some (.init 0b01#2 false false) := by rfl

theorem test_encode_init : encode (.init 0b10#2 true true) = .command 0x10020300#32 := by rfl

/-! ### Helpers -/

/-- The reset state with answers lined up. -/
def fresh (answers : List SpiAnswer) : State := { State.reset with answers := answers }

/-- A block configured by `INIT W3`, with answers lined up. -/
def ready (answers : List SpiAnswer) : State :=
  { fresh answers with dstate := .configured, wmode := some .w3, rref := some 430, rnom := some 100 }

/-- A block whose transmit never returned. -/
def hung (inbox : List HostEvent) : State :=
  { State.reset with cs := .low, phase := .selected, trace := [.csLow], inbox := inbox }

/-- What an outcome shows: the trace and the responses of its next state. -/
def shows (o : Host.Outcome State Fault Refusal) : Option (List BusEvent × List Response) :=
  match o with
  | .next t => some (t.trace, t.responses)
  | .fault _ => none
  | .refused _ => none

/-- The Device Handle an outcome leaves. -/
def handle (o : Host.Outcome State Fault Refusal) : Option (DState × Option WMode × Option Rat × Option Rat) :=
  match o with
  | .next t => some (t.dstate, t.wmode, t.rref, t.rnom)
  | .fault _ => none
  | .refused _ => none

/-- Chip-select and phase an outcome leaves. -/
def line (o : Host.Outcome State Fault Refusal) : Option (Level × Phase) :=
  match o with
  | .next t => some (t.cs, t.phase)
  | .fault _ => none
  | .refused _ => none

/-- The answers of a read of the bytes `bs`. -/
def reads (bs : List Byte) : List SpiAnswer := [.ok [], .ok bs]

/-! ### One step of each instruction (95_test_vectors 2.2 to 2.6) -/

theorem test_xwr : shows (exec (.xwr 0x7F#8 0x00#8) (fresh [.ok []])) =
    some ([.csLow, .tx [0xFF#8, 0x00#8], .csHigh], [⟨.ok, .none⟩]) := by decide

theorem test_xwr_fails : shows (exec (.xwr 0x03#8 0x12#8) (fresh [.fail 1])) =
    some ([.csLow, .txFail [0x83#8], .csHigh], [⟨.eBus, .none⟩]) := by decide

theorem test_xrd : shows (exec (.xrd 0x81#8 2) (fresh (reads [0xAB#8, 0xCD#8]))) =
    some ([.csLow, .tx [0x01#8], .rx [0xAB#8, 0xCD#8], .csHigh], [⟨.ok, .bytes [0xAB#8, 0xCD#8]⟩]) := by decide

theorem test_xrd_length0 : shows (exec (.xrd 0x01#8 0) (fresh [])) = some ([], [⟨.eLength, .none⟩]) := by decide

theorem test_wframe : shows (exec (.wframe 0x03#7 0x80#8) (fresh [.ok []])) =
    some ([.csLow, .tx [0x83#8, 0x80#8], .csHigh], [⟨.ok, .none⟩]) := by decide

theorem test_rframe : shows (exec (.rframe 0x03#7) { fresh (reads [0x80#8]) with argLen := 1 }) =
    some ([.csLow, .tx [0x03#8], .rx [0x80#8], .csHigh], [⟨.ok, .bytes [0x80#8]⟩]) := by decide

theorem test_init_w3 : shows (exec (.init 0b01#2 false false) (fresh [.ok []])) =
    some ([.csLow, .tx [0x80#8, 0xD2#8], .csHigh], [⟨.ok, .none⟩]) := by decide +kernel

/-- INIT W4, r=4300, n=1/2; then DEINIT drops it all. -/
theorem test_init_handle : handle (exec (.init 0b10#2 true true)
    { fresh [.ok []] with argR := some 4300, argN := some (1 / 2) }) =
    some (.configured, some .w4, some 4300, some (1 / 2)) := by decide +kernel

theorem test_deinit : handle (exec .deinit (ready [])) = some (.unconfigured, none, none, none) := by decide

theorem test_rdraw : shows (exec .rdraw (ready (reads [0x3B#8, 0x8F#8]))) =
    some ([.csLow, .tx [0x01#8], .rx [0x3B#8, 0x8F#8], .csHigh], [⟨.ok, .raw 7623#16⟩]) := by decide +kernel

theorem test_rdraw_unconfigured : shows (exec .rdraw (fresh [])) = some ([], [⟨.eState, .none⟩]) := by decide

theorem test_rdres : (shows (exec (.rdres false) (ready (reads [0xFF#8, 0xFF#8])))).map Prod.snd =
    some [⟨.ok, .value (7044905 / 16384)⟩] := by decide +kernel

/-- `RDRES r=0` is E_PARAM, with no bus event. -/
theorem test_rdres_param : shows (exec (.rdres true) { ready [] with argR := some 0 }) =
    some ([], [⟨.eParam, .none⟩]) := by decide +kernel

theorem test_rdtmp : (shows (exec (.rdtmp false false) (ready (reads [0x20#8, 0x00#8])))).map Prod.snd =
    some [⟨.ok, .value (-9250 / 77)⟩] := by decide +kernel

/-- `RDTMP r=4000` on the set-up of P3: exactly 0. -/
theorem test_rdtmp_override : (shows (exec (.rdtmp true false)
    { ready (reads [0x40#8, 0x00#8]) with rref := some 4300, rnom := some 1000, argR := some 4000 })).map Prod.snd =
    some [⟨.ok, .value 0⟩] := by decide +kernel

/-! ### The step, reset, status numbers -/

theorem test_step_illegal : shows (step ((fresh []).withFetchWord 32 0x0100D201)) =
    some ([], [⟨.eIllegal, .none⟩]) := by decide +kernel

/-- The first instruction after reset runs, whatever the platform answers. -/
theorem test_step_first : step (State.reset.withFetchWord 32 0x01000000) = exec (.xwr 0x00#8 0x00#8) State.reset := by rfl

theorem test_step_first_frame : step (State.reset.withFetchWord 8 0x00) =
    exec (.rframe 0x00#7) { State.reset with argLen := 1 } := by rfl

/-- A transmit that never returns: chip-select stays low, no response. -/
theorem test_hang : line (exec (.xwr 0x00#8 0x00#8) (fresh [.hang])) = some (.low, .selected) := by decide

/-- Reset inside a transaction: `CS_HIGH`, no response, the waiting command stays. -/
theorem test_reset_busy : shows (step (hung [.command 0x11000000#32 none none, .reset])) =
    some ([.csLow, .csHigh], []) := by decide +kernel

theorem test_first_bytes : (writeHeader 0x80#8, readHeader 0x80#8, writeHeader 0xFF#8, readHeader 0xFF#8) =
    (0x80#8, 0x00#8, 0xFF#8, 0x7F#8) := by decide

/-- R51: bit 7 of the operand names no other register; byte 1 of a read at 0x81 comes from 0x02. -/
theorem test_location : slaveLocation 0x81#8 1 = 2 := by decide

theorem test_status_numbers : [Status.ok, .eIllegal, .eState, .eParam, .eLength, .eBus].map statusCode =
    [0x00#8, 0x01#8, 0x02#8, 0x03#8, 0x04#8, 0x05#8] := by decide

/-- 95_test_vectors 2.4: fault flag set, and the largest code. -/
theorem test_raw : (rawCode 0x12#8 0x35#8, rawCode 0xFF#8 0xFE#8, faultFlag 0x35#8) = (2330#16, 32767#16, true) := by decide

/-! ### Witnesses: states and operands that meet the hypotheses of the statements -/

/-- ResetGivesOneState holds of every state; ResetInsideTransaction: -/
theorem witness_ResetInsideTransaction : (hung [.reset]).phase ≠ .idle ∧ .reset ∈ (hung [.reset]).inbox := by decide

theorem witness_ResetOfIdleBlock : ({ fresh [] with inbox := [.reset] } : State).phase = .idle ∧
    ({ fresh [] with inbox := [.reset] } : State).inbox = .reset :: [] := by decide

/-- A state that is not reset meets the invariant. -/
theorem ready_inv : (ready []).Inv := by
  refine ⟨by decide, by decide +kernel, by decide, by decide⟩

/-- StepKeepsInvariant: a step from it answers a next state. -/
theorem witness_StepKeepsInvariant : (ready []).Inv ∧ step (ready []) = .next (ready []) := ⟨ready_inv, by rfl⟩

/-- StepNeverStops, with a command waiting and with a frame waiting. -/
theorem witness_StepNeverStops_command : ({ ready [] with inbox := [.command 0x12000000#32 none none] } : State).Inv ∧
    ∀ sent len rest, ({ ready [] with inbox := [.command 0x12000000#32 none none] } : State).inbox =
      .frame sent len :: rest → ∃ i, decodeFrame sent = .ok i :=
  ⟨ready_inv, fun _ _ _ h => by cases h⟩

theorem witness_StepNeverStops_frame : ({ ready [] with inbox := [.frame [0x01#8] 2] } : State).Inv ∧
    ∀ sent len rest, ({ ready [] with inbox := [.frame [0x01#8] 2] } : State).inbox =
      .frame sent len :: rest → ∃ i, decodeFrame sent = .ok i :=
  ⟨ready_inv, fun _ _ _ h => by cases h; exact ⟨.rframe 0x01#7, rfl⟩⟩

theorem witness_DecodeOfEncode : (Instr.xrd 0x01#8 255).wellFormed = true := by decide

theorem witness_EncodeOfDecode : decode (.command 0x13000300#32) = .ok (.rdtmp true true) := by rfl

/-- DecodeFollowsTable: a word for each clause. -/
theorem witness_DecodeFollowsTable :
    0x01FFFF00#32 &&& 0xFF0000FF#32 = 0x01000000#32 ∧ 0x02FF0000#32 &&& 0xFF0000FF#32 = 0x02000000#32 ∧
    0x10030300#32 &&& 0xFFFCFCFF#32 = 0x10000000#32 ∧ 0x11000000#32 &&& 0xFFFFFFFF#32 = 0x11000000#32 ∧
    0x12000100#32 &&& 0xFFFFFEFF#32 = 0x12000000#32 ∧ 0x13000300#32 &&& 0xFFFFFCFF#32 = 0x13000000#32 ∧
    0x1F000000#32 &&& 0xFFFFFFFF#32 = 0x1F000000#32 := by decide

/-- Its last clause: a word outside the map. -/
theorem witness_DecodeFollowsTable_illegal :
    0x12000200#32 &&& 0xFF0000FF#32 ≠ 0x01000000#32 ∧ 0x12000200#32 &&& 0xFF0000FF#32 ≠ 0x02000000#32 ∧
    0x12000200#32 &&& 0xFFFCFCFF#32 ≠ 0x10000000#32 ∧ 0x12000200#32 &&& 0xFFFFFFFF#32 ≠ 0x11000000#32 ∧
    0x12000200#32 &&& 0xFFFFFEFF#32 ≠ 0x12000000#32 ∧ 0x12000200#32 &&& 0xFFFFFCFF#32 ≠ 0x13000000#32 ∧
    0x12000200#32 &&& 0xFFFFFFFF#32 ≠ 0x1F000000#32 := by decide

theorem witness_StepRunsDecodedCommand :
    ({ fresh [] with inbox := [.command 0x1F000000#32 none none] } : State).phase = .idle ∧
    decodeWord 0x1F000000#32 = .ok .deinit := ⟨rfl, rfl⟩

theorem witness_StepRunsDecodedFrame :
    ({ fresh [] with inbox := [.frame [0x80#8, 0xD2#8] 0] } : State).phase = .idle ∧
    decodeFrame [0x80#8, 0xD2#8] = .ok (.wframe 0x00#7 0xD2#8) := ⟨rfl, rfl⟩

/-- PlacedWordRuns, for a command word and for a frame. -/
theorem witness_PlacedWordRuns_command : State.reset.phase = .idle ∧ decodeTableWord 32 0x11000000 = some .rdraw ∧
    codeOfTableWord 32 0x11000000 = .command 0x11000000#32 := ⟨rfl, rfl, rfl⟩

theorem witness_PlacedWordRuns_frame : State.reset.phase = .idle ∧ decodeTableWord 8 0x7F = some (.rframe 0x7F#7) ∧
    codeOfTableWord 8 0x7F = .frame [0x7F#8] := ⟨rfl, rfl, rfl⟩

theorem witness_IllegalWordAnswered :
    ({ fresh [] with inbox := [.command 0xFFFFFFFF#32 none none] } : State).phase = .idle ∧
    decodeWord 0xFFFFFFFF#32 = .error .reservedC := ⟨rfl, rfl⟩

theorem witness_IdleBlockWaits : State.reset.inbox = [] := by decide

theorem witness_BusyBlockAcceptsNothing : (hung [.command 0x11000000#32 none none]).phase ≠ .idle ∧
    .reset ∉ (hung [.command 0x11000000#32 none none]).inbox := by decide

/-- XwrWritesOneRegister, WframeIsWriteTransaction: the transmit succeeds, or fails with nothing, part or all sent. -/
theorem witness_write_ok : (fresh [.ok []]).cs = .high ∧ (fresh [.ok []]).phase = .idle ∧
    (fresh [.ok []]).answerAt 0 = .ok [] := by decide

theorem witness_write_fail : (fresh [.fail 0]).answerAt 0 = .fail 0 ∧ (fresh [.fail 1]).answerAt 0 = .fail 1 ∧
    (fresh [.fail 2]).answerAt 0 = .fail 2 ∧ (fresh [.fail 0]).cs = .high ∧ (fresh [.fail 0]).phase = .idle := by decide

/-- XrdReadsRegisters, RframeIsReadTransaction: both calls succeed, the first fails, the second fails; lengths 0 and 1. -/
theorem witness_read_ok : (fresh (reads [0xD2#8])).cs = .high ∧ (fresh (reads [0xD2#8])).phase = .idle ∧
    (fresh (reads [0xD2#8])).answerAt 0 = .ok [] ∧ (fresh (reads [0xD2#8])).answerAt 1 = .ok [0xD2#8] ∧
    [0xD2#8].length = 1 := by decide

theorem witness_read_txFail : (fresh [.fail 1]).answerAt 0 = .fail 1 := by decide

theorem witness_read_rxFail : (fresh [.ok [], .fail 0]).answerAt 0 = .ok [] ∧
    (fresh [.ok [], .fail 0]).answerAt 1 = .fail 0 := by decide

theorem witness_rframe_lengths : (fresh []).argLen = 0 ∧ 1 ≤ ({ fresh (reads [0x00#8]) with argLen := 1 } : State).argLen ∧
    ({ fresh (reads [0x00#8]) with argLen := 1 } : State).answerAt 1 = .ok [0x00#8] := by decide

/-- TransactionNeedsIdleLine: each of the two lines that are not idle. -/
theorem witness_TransactionNeedsIdleLine : ¬((hung []).cs = .high ∧ (hung []).phase = .idle) ∧
    ¬(({ fresh [] with cs := .low } : State).cs = .high ∧ ({ fresh [] with cs := .low } : State).phase = .idle) ∧
    ¬(({ fresh [] with phase := .sent } : State).cs = .high ∧ ({ fresh [] with phase := .sent } : State).phase = .idle) := by
  decide

/-- An `INIT` is refused there where its checks pass, and answers where they do not. -/
theorem witness_TransactionNeedsIdleLine_init : startsTransaction (.init 0b10#2 false false) (hung []) = true ∧
    startsTransaction (.init 0b11#2 false false) (hung []) = false := by decide +kernel

/-- Its second clause: an instruction that answers there. -/
theorem witness_TransactionNeedsIdleLine_next : line (exec .deinit (hung [])) = some (.low, .selected) := by decide

theorem witness_TransportIgnoresHandle : ∃ addr value, Instr.xwr 0x00#8 0xD2#8 = .xwr addr value := ⟨_, _, rfl⟩

/-- InitChecks, and the first clauses of InitConfigures: a configured block, and on an unconfigured one the mode 0b11, a zero operand,
an absent operand. -/
theorem witness_InitChecks : (ready []).dstate = .configured ∧ (fresh []).dstate = .unconfigured := by decide

theorem witness_InitChecks_operands : Invalid (some 0) ∧ Invalid none := by
  refine ⟨fun q h => ?_, fun q h => by cases h⟩
  cases h; decide +kernel

/-- InitConfigures with an override and a default; the transmit succeeds or fails. -/
theorem witness_InitConfigures :
    ({ fresh [.ok []] with argR := some 4300 } : State).argR = some 4300 ∧ (fresh [.ok []]).dstate = .unconfigured ∧
    (0b10#2, WMode.w4, 0xC2#8) ∈ [(0b00#2, .w2, 0xC2#8), (0b01#2, .w3, 0xD2#8), (0b10#2, .w4, 0xC2#8)] ∧
    (0 : Rat) < 4300 ∧ (0 : Rat) < 100 ∧ (fresh [.ok []]).answerAt 0 = .ok [] ∧ (fresh [.fail 1]).answerAt 0 = .fail 1 := by
  decide +kernel

theorem witness_ConversionsNeedHandle : (fresh []).dstate = .unconfigured := by decide

/-- RdrawReadsRawCode, RdresReadsResistance, RdtmpReadsTemperature: a configured idle block with positive elements, for each outcome
of the two calls. -/
theorem witness_conversion_ok : (ready (reads [0x20#8, 0x00#8])).dstate = .configured ∧
    (ready (reads [0x20#8, 0x00#8])).cs = .high ∧ (ready (reads [0x20#8, 0x00#8])).phase = .idle ∧
    (ready (reads [0x20#8, 0x00#8])).rref = some 430 ∧ (ready (reads [0x20#8, 0x00#8])).rnom = some 100 ∧
    (0 : Rat) < 430 ∧ (0 : Rat) < 100 ∧ (ready (reads [0x20#8, 0x00#8])).answerAt 0 = .ok [] ∧
    (ready (reads [0x20#8, 0x00#8])).answerAt 1 = .ok [0x20#8, 0x00#8] := by decide +kernel

theorem witness_conversion_fail : (ready [.fail 1]).answerAt 0 = .fail 1 ∧ (ready [.ok [], .fail 0]).answerAt 0 = .ok [] ∧
    (ready [.ok [], .fail 0]).answerAt 1 = .fail 0 := by decide

theorem witness_conversion_override : ({ ready [] with argR := some 4000, argN := some 10 } : State).argR = some 4000 ∧
    ({ ready [] with argR := some 4000, argN := some 10 } : State).argN = some 10 ∧ (0 : Rat) < 4000 := by decide +kernel

theorem witness_conversion_badOverride : (ready []).dstate = .configured ∧ Invalid (ready []).argR ∧ Invalid (ready []).argN :=
  ⟨rfl, (witness_InitChecks_operands).2, (witness_InitChecks_operands).2⟩

/-- MissingHandleValueFaults: both clauses. -/
theorem witness_MissingHandleValueFaults : ({ ready [] with rref := none, rnom := none } : State).dstate = .configured ∧
    Invalid ({ ready [] with rref := none, rnom := none } : State).rref ∧
    Invalid ({ ready [] with rref := none, rnom := none } : State).rnom :=
  ⟨rfl, (witness_InitChecks_operands).2, (witness_InitChecks_operands).2⟩

theorem witness_RawCodeArithmetic : (32767 : Nat) ≤ 32767 ∧ (rawCode 0xFF#8 0xFE#8).toNat = 32767 := by decide

theorem witness_FaultFlagInvisible : ∃ ur un, Instr.rdtmp false true = .rdtmp ur un := ⟨_, _, rfl⟩

/-- ResistanceLaws, TemperatureLaws, ConversionRanges: the largest raw code with positive resistances. -/
theorem witness_conversion_laws : (32767 : Nat) ≤ 32767 ∧ (0 : Rat) < 1 / 1000 ∧ (0 : Rat) < 100 := by decide +kernel

/-- EveryTransactionIsOneBracket, EveryCommandAnswersOnce, HandleFrame, CommandEndsIffCallsReturn: a command that answers. -/
theorem witness_answers : (fresh [.ok []]).cs = .high ∧ (fresh [.ok []]).phase = .idle ∧ leavesHandle (.xwr 0x00#8 0x01#8) = true ∧
    exec (.xwr 0x00#8 0x01#8) (fresh [.ok []]) =
      .next ((fresh [.ok []]).finished 1 [.csLow, .tx [0x80#8, 0x01#8], .csHigh] .ok .none) := ⟨rfl, rfl, rfl, rfl⟩

/-- The other arm of EveryCommandAnswersOnce and CommandEndsIffCallsReturn: a command that never answers. -/
theorem witness_never_answers : exec (.xwr 0x00#8 0x01#8) (fresh [.hang]) =
    .next ((fresh [.hang]).stuckIn .selected 1 [.csLow]) ∧ CallHung (fresh [.hang]) ((fresh [.hang]).stuckIn .selected 1 [.csLow]) :=
  ⟨rfl, 0, by decide, rfl⟩

/-- ErrorsChangeNothing: an `E_BUS` on a configured block. -/
theorem witness_ErrorsChangeNothing : (ready [.fail 1]).cs = .high ∧ (ready [.fail 1]).phase = .idle ∧
    exec .rdraw (ready [.fail 1]) =
      .next ((ready [.fail 1]).finished 1 [.csLow, .txFail [0x01#8], .csHigh] .eBus .none) ∧ Status.eBus ≠ .ok :=
  ⟨rfl, rfl, rfl, by decide⟩

/-- RejectionsLeaveBusAlone: an `E_STATE`. -/
theorem witness_RejectionsLeaveBusAlone : exec .rdraw (fresh []) = .next ((fresh []).finished 0 [] .eState .none) ∧
    Status.eState ≠ .ok ∧ Status.eState ≠ .eBus := ⟨rfl, by decide, by decide⟩

/-- HandleLifecycle, ModeMatchesByteWritten, InitFrame: an `INIT` that configures, a `DEINIT`, and a command on a configured block. -/
theorem witness_configures : handle (exec (.init 0b01#2 false false) (fresh [.ok []])) =
    some (.configured, some .w3, some 430, some 100) := by decide +kernel

theorem witness_deconfigures : exec .deinit (ready []) =
    .next { ready [] with dstate := .unconfigured, wmode := none, rref := none, rnom := none,
                          responses := [⟨.ok, .none⟩] } := rfl

theorem witness_keeps_mode : handle (exec (.xwr 0x00#8 0x00#8) (ready [.ok []])) =
    some (.configured, some .w3, some 430, some 100) := by decide

/-- SerialHangLeavesLineLow: the transmit hangs, or the receive. -/
theorem witness_SerialHangLeavesLineLow : (fresh [.hang]).answerAt 0 = .hang ∧ (fresh [.ok [], .hang]).answerAt 0 = .ok [] ∧
    (fresh [.ok [], .hang]).answerAt 1 = .hang ∧ (fresh [.hang]).cs = .high ∧ (fresh [.hang]).phase = .idle := by decide

/-- Every instruction but `DEINIT` reaches its transaction somewhere: on a fresh block, or on a configured one. -/
theorem witness_startsTransaction_fresh : [Instr.xwr 0x00#8 0x00#8, .xrd 0x00#8 1, .init 0b00#2 false false, .wframe 0x00#7 0x00#8,
    .rframe 0x00#7].all (fun i => startsTransaction i { fresh [.hang] with argLen := 1 }) = true := by decide +kernel

theorem witness_startsTransaction_ready : [Instr.rdraw, .rdres false, .rdres true, .rdtmp false true].all
    (fun i => startsTransaction i { ready [.hang] with argR := some 1, argN := some 1 }) = true := by decide +kernel

/-- Its second clause: the instructions that read. -/
theorem witness_readHeaderOf : [Instr.xrd 0x83#8 1, .rframe 0x03#7, .rdraw, .rdres true, .rdtmp false true].map readHeaderOf =
    [some 0x03#8, some 0x03#8, some 0x01#8, some 0x01#8, some 0x01#8] := by decide

/-- RealisedTemperature: exact division as the rounding, at `rho = N` and elsewhere. -/
theorem witness_RealisedTemperature : (0 : Rat) < 100 ∧ Conforms ((100 - 100) * 20000 / (77 * 100)) ((100 - 100) * 20000 / (77 * 100)) ∧
    Conforms ((215 / 4 - 100) * 20000 / (77 * 100)) ((215 / 4 - 100) * 20000 / (77 * 100)) := by
  refine ⟨by norm_num, ?_, ?_⟩ <;> norm_num [Conforms]

/-- 95_test_vectors 2.4 in fixed point: `R = 430` with one fraction bit, raw code 4096, is 215/4 with 16 fraction bits. -/
theorem test_resistanceFixed : resistanceFixed 4096 ⟨860, 1⟩ = ⟨3522560, 16⟩ ∧ fixedValue ⟨3522560, 16⟩ = 215 / 4 := by
  decide +kernel

/-- UnselectedOperandsIgnored: one instruction meets both clauses. -/
theorem witness_UnselectedOperandsIgnored : (Instr.rdtmp false false = .rdtmp false false) ∧
    (Instr.rdres true = .init 0b00#2 true false ∨ Instr.rdres true = .rdres true ∨ Instr.rdres true = .rdtmp true false) := by decide

/-- XrdReadsRegisters, its clause on the word: the longest length. -/
theorem witness_XrdReadsRegisters_word : (255 : Nat) ≤ 255 ∧
    (0x02#8 ++ 0x7F#8 ++ BitVec.ofNat 8 255 ++ 0x00#8 : CommandWord) = 0x027FFF00#32 := by decide

/-- StepOnlyAppends: a step that answers. -/
theorem witness_StepOnlyAppends : step State.reset = .next State.reset := rfl

end Sys2Proof.Tests
end

section
/-! PROOFS. The statements of spec/10_state.md: what a busy block accepts (R27), and where the wiring mode of a configured block
comes from (R32). -/

namespace Sys2Proof.Machine

/-! ### A block inside a transaction -/

/-- Inside a transaction, with no reset among the host's events, nothing is taken (R27). -/
theorem fetch_eq_wait_of_busy {s : State} (hp : s.phase ≠ .idle) (hr : .reset ∉ s.inbox) : fetch s = .wait := by
  rw [fetch, if_neg hp, fetchBusy, if_neg hr]

/-- A block that takes no event stays as it is. -/
theorem step_eq_self_of_wait {s : State} (h : fetch s = .wait) : step s = .next s := by
  rw [step, h]

/-- Settles O17: `fetch` finds nothing to take, whatever commands wait, so `step` keeps the state. -/
theorem busyBlockAcceptsNothing : Obligations.BusyBlockAcceptsNothing :=
  fun _ hp hr => step_eq_self_of_wait (fetch_eq_wait_of_busy hp hr)

/-! ### The mode of a configured block -/

/-- What an instruction can do to `DSTATE` and `WMODE`: leave both, end the handle (`DEINIT`, R149), or hold the mode whose
configuration byte it wrote to address 0x00 (an `INIT` whose write succeeded, R145). Among the shapes of `exec_shape` only those two
touch the handle. -/
theorem exec_mode_cases {i : Instr} {s t : State} (h : exec i s = .next t) :
    (t.dstate = s.dstate ∧ t.wmode = s.wmode) ∨ (i = .deinit ∧ t.dstate = .unconfigured) ∨
      ∃ mode ur un m, i = .init mode ur un ∧ t.wmode = some m ∧
        t.trace = s.trace ++ [.csLow, .tx [0x80#8, cfg m], .csHigh] := by
  cases exec_shape h with
  | deinit hi => exact .inr (.inl ⟨hi, rfl⟩)
  | configured mode ur un m R N bs hi => exact .inr (.inr ⟨mode, ur, un, m, hi, rfl, rfl⟩)
  | rejected | wrote | read | txFailed | rxFailed | txHangs | rxHangs => exact .inl ⟨rfl, rfl⟩

/-- Settles O46: of the three cases of `exec_mode_cases`, the first keeps the mode, the second leaves no configured block, and the
third is the `INIT` that wrote the byte. -/
theorem modeMatchesByteWritten : Obligations.ModeMatchesByteWritten := by
  intro i s t m h hd hm
  obtain ⟨hd', hm'⟩ | ⟨-, hd'⟩ | ⟨mode, ur, un, m', hi, hm', htr⟩ := exec_mode_cases h
  · exact .inl ⟨hd' ▸ hd, hm' ▸ hm⟩
  · rw [hd'] at hd; cases hd
  · obtain rfl : m' = m := Option.some.inj (hm'.symm.trans hm)
    exact .inr ⟨⟨mode, ur, un, hi⟩, htr⟩

end Sys2Proof.Machine
end

section
/-! PROOFS. Statements of the encoding's family: the decoder against the opcode map (spec/30_encoding.md R89), and the one response of a
command with its status and payload (R95, R198). -/

namespace Sys2Proof

/-! ### The rows of the opcode map -/

/-- `w` matches the row of R89 with the operation `op` and the reserved bits `ma` of `A` and `mb` of `B`. All of `OP` and `C` is
fixed in every row. -/
def MatchesRow (w : CommandWord) (op ma mb : Byte) : Prop :=
  w &&& commandWord 0xFF#8 ma mb 0xFF#8 = commandWord op 0#8 0#8 0#8

/-- A mask of ones keeps the whole byte. -/
theorem byte_and_ones (b : Byte) : b &&& 0xFF#8 = b := BitVec.and_allOnes

/-- A row's mask and match, byte by byte. -/
theorem matchesRow_iff {w : CommandWord} {op ma mb : Byte} :
    MatchesRow w op ma mb ↔ opField w = op ∧ aField w &&& ma = 0#8 ∧ bField w &&& mb = 0#8 ∧ cField w = 0#8 := by
  conv_lhs => rw [MatchesRow, ← commandWord_fields w]
  rw [commandWord_and, commandWord_inj, byte_and_ones, byte_and_ones]

/-- The reserved bits 7..2 of an operand byte, as a mask. -/
theorem above2_eq_zero_iff {b : Byte} : above2 b = 0#6 ↔ b &&& 0xFC#8 = 0#8 := by
  revert b; decide

/-- The reserved bits 7..1 of an operand byte, as a mask. -/
theorem above1_eq_zero_iff {b : Byte} : above1 b = 0#7 ↔ b &&& 0xFE#8 = 0#8 := by
  revert b; decide

/-- What `reservedZero` accepts. -/
theorem reservedZero_eq_ok_iff {aOk bOk : Bool} {i j : Instr} :
    reservedZero aOk bOk i = .ok j ↔ aOk = true ∧ bOk = true ∧ j = i := by
  cases aOk <;> cases bOk <;> simp [reservedZero, eq_comm]

/-- What the decoder accepts, said once: a word that matches a row of R89, as that row's command with its fields. -/
theorem decodeWord_eq_ok_iff {w : CommandWord} {i : Instr} :
    decodeWord w = .ok i ↔
      (MatchesRow w 0x01#8 0x00#8 0x00#8 ∧ i = .xwr (aField w) (bField w)) ∨
      (MatchesRow w 0x02#8 0x00#8 0x00#8 ∧ i = .xrd (aField w) (bField w).toNat) ∨
      (MatchesRow w 0x10#8 0xFC#8 0xFC#8 ∧ i = .init (modeField w) (urBit w) (unBit w)) ∨
      (MatchesRow w 0x11#8 0xFF#8 0xFF#8 ∧ i = .rdraw) ∨
      (MatchesRow w 0x12#8 0xFF#8 0xFE#8 ∧ i = .rdres (urBit w)) ∨
      (MatchesRow w 0x13#8 0xFF#8 0xFC#8 ∧ i = .rdtmp (urBit w) (unBit w)) ∨
      (MatchesRow w 0x1F#8 0xFF#8 0xFF#8 ∧ i = .deinit) := by
  simp only [matchesRow_iff, decodeWord]
  by_cases hc : cField w = 0#8
  · have ok_iff (j : Instr) : (Except.ok j : Except IllegalCode Instr) = .ok i ↔ i = j := by simp [eq_comm]
    simp only [hc, if_true, decodeOp]
    -- one goal per value of `OP` in the map, where the other six rows drop out, and one for all other values
    split_ifs with xwr xrd init rdraw rdres rdtmp deinit <;>
      simp [*, reservedZero_eq_ok_iff, above2_eq_zero_iff, above1_eq_zero_iff, byte_and_ones, and_assoc]
  · simp [hc]

/-- Settles O10: the seven clauses and the last one are the two directions of `decodeWord_eq_ok_iff`, whose rows' masks and matches
are the literals of R89 by evaluation. -/
theorem decodeFollowsTable : Obligations.DecodeFollowsTable := by
  intro w
  refine ⟨fun h => decodeWord_eq_ok_iff.mpr (.inl ⟨h, rfl⟩),
    fun h => decodeWord_eq_ok_iff.mpr (.inr (.inl ⟨h, rfl⟩)),
    fun h => decodeWord_eq_ok_iff.mpr (.inr (.inr (.inl ⟨h, rfl⟩))),
    fun h => decodeWord_eq_ok_iff.mpr (.inr (.inr (.inr (.inl ⟨h, rfl⟩)))),
    fun h => decodeWord_eq_ok_iff.mpr (.inr (.inr (.inr (.inr (.inl ⟨h, rfl⟩))))),
    fun h => decodeWord_eq_ok_iff.mpr (.inr (.inr (.inr (.inr (.inr (.inl ⟨h, rfl⟩)))))),
    fun h => decodeWord_eq_ok_iff.mpr (.inr (.inr (.inr (.inr (.inr (.inr ⟨h, rfl⟩)))))),
    fun hxwr hxrd hinit hrdraw hrdres hrdtmp hdeinit => ?_⟩
  cases hw : decodeWord w with
  | error e => exact ⟨e, rfl⟩
  | ok i =>
    obtain ⟨h, -⟩ | ⟨h, -⟩ | ⟨h, -⟩ | ⟨h, -⟩ | ⟨h, -⟩ | ⟨h, -⟩ | ⟨h, -⟩ := decodeWord_eq_ok_iff.mp hw
    exacts [absurd h hxwr, absurd h hxrd, absurd h hinit, absurd h hrdraw, absurd h hrdres, absurd h hrdtmp, absurd h hdeinit]

end Sys2Proof

namespace Sys2Proof.Machine

/-! ### The response of a command -/

/-- Every command may report `OK` (R198). -/
theorem mayReport_ok (i : Instr) : mayReport i .ok = true := by
  cases i <;> rfl

/-- An instruction that writes a register gives no payload with `OK` (R95). -/
theorem Writes.payloadFits_none {i : Instr} {addr value : Byte} (hw : Writes i addr value) (n : Nat) :
    payloadFits i n .none = true := by
  cases hw <;> rfl

/-- Where the `k`-th coming answer is a hang, a stuck command that made more than `k` calls has hung (R123). -/
theorem callHung_stuckIn {s : State} {k calls : Nat} (hk : k < calls) (ha : s.answerAt k = .hang) (p : Phase)
    (ev : List BusEvent) : CallHung s (s.stuckIn p calls ev) :=
  ⟨k, Nat.add_lt_add_left hk s.draws, ha⟩

/-- Settles O42: of the shapes of `exec_shape`, the seven that finish add one response, whose status or payload the shape itself
bounds, and the two stuck ones hung in their last call. -/
theorem everyCommandAnswersOnce : Obligations.EveryCommandAnswersOnce := by
  intro i s t hp h
  cases exec_shape h with
  | rejected e he hm =>
    have hne : e ≠ .ok := by rcases he with rfl | rfl | rfl <;> decide
    exact .inl ⟨_, rfl, hp, hm, fun hok => absurd hok hne, fun _ => rfl⟩
  | deinit hi => subst hi; exact .inl ⟨_, rfl, hp, rfl, fun _ => rfl, fun _ => rfl⟩
  | configured mode ur un m R N bs hi => subst hi; exact .inl ⟨_, rfl, hp, rfl, fun _ => rfl, fun _ => rfl⟩
  | wrote addr value bs hw => exact .inl ⟨_, rfl, hp, mayReport_ok i, fun _ => hw.payloadFits_none _, fun _ => rfl⟩
  | read addr n bs given p hr hn hb ha ha' hfit =>
    exact .inl ⟨_, rfl, hp, mayReport_ok i, fun _ => hfit, fun hne => absurd rfl hne⟩
  | txFailed part k hb ha hm => exact .inl ⟨_, rfl, hp, hm, nofun, fun _ => rfl⟩
  | rxFailed addr n k bs hr hn hb ha ha' hm => exact .inl ⟨_, rfl, hp, hm, nofun, fun _ => rfl⟩
  | txHangs hb ha => exact .inr ⟨callHung_stuckIn Nat.zero_lt_one ha _ _, rfl, nofun, rfl⟩
  | rxHangs addr n bs hr hn hb ha ha' => exact .inr ⟨callHung_stuckIn Nat.one_lt_two ha' _ _, rfl, nofun, rfl⟩

end Sys2Proof.Machine
end

section
/-! PROOFS. The statements of the Bus Transport (spec/40_transport.md): what `XWR` and `XRD` send and answer (R111, R112, R115 to
R119), what they do not look at (R110), and the one bracket of every command that answered (R114). -/

namespace Sys2Proof

/-! ### The words of `XWR` and `XRD` -/

/-- Row `XWR` of R89, with the operation 0x01 and `C` 0. -/
theorem decodeWord_xwr (addr value : Byte) : decodeWord (commandWord 0x01#8 addr value 0x00#8) = .ok (.xwr addr value) := by
  simp [decodeWord, decodeOp]

/-- Row `XRD` of R89, with the operation 0x02 and `C` 0; the length is the number in `B` (R90). -/
theorem decodeWord_xrd (addr length : Byte) :
    decodeWord (commandWord 0x02#8 addr length 0x00#8) = .ok (.xrd addr length.toNat) := by
  simp [decodeWord, decodeOp]

end Sys2Proof

namespace Sys2Proof.Machine

/-! ### Bit 7 of the address operand -/

/-- Bit 7 of the operand never reaches a write header (R83). -/
theorem writeHeader_flip_bit7 (addr : Byte) : writeHeader (addr ^^^ 0x80#8) = writeHeader addr := by
  revert addr; decide

/-- Bit 7 of the operand never reaches a read header (R83). -/
theorem readHeader_flip_bit7 (addr : Byte) : readHeader (addr ^^^ 0x80#8) = readHeader addr := by
  revert addr; decide

/-- A write command looks at its address only through the header it sends (R111). -/
theorem writeCommand_congr_header {addr addr' : Byte} (h : writeHeader addr = writeHeader addr') (value : Byte)
    (commit : State → State) (s : State) : writeCommand addr value commit s = writeCommand addr' value commit s := by
  simp only [writeCommand, memWrite, writeBytes, h]

/-- A read command looks at its address only through the header it sends (R112). -/
theorem readCommand_congr_header {addr addr' : Byte} (h : readHeader addr = readHeader addr') (n : Nat)
    (payload : List Byte → Payload) (s : State) : readCommand addr n payload s = readCommand addr' n payload s := by
  simp only [readCommand, memRead, readBytes, h]

/-! ### What the two commands answer -/

/-- A write with nothing to commit, when its frame went out (R116). -/
theorem writeCommand_id_ok {addr value : Byte} {bs : List Byte} {s : State} (hi : s.busIdle = true)
    (h : s.answerAt 0 = .ok bs) :
    writeCommand addr value (fun t => t) s =
      .next (s.finished 1 [.csLow, .tx [addr ||| 0x80#8, value], .csHigh] .ok .none) := by
  rw [writeCommand_ok hi h, State.bracketed_respond hi]

/-- Settles O18: the two outcomes of the one serial call, from the entry condition of the transaction. -/
theorem xwrWritesOneRegister : Obligations.XwrWritesOneRegister := by
  intro s addr value hcs hph
  have hi : s.busIdle = true := State.busIdle_iff.mpr ⟨hcs, hph⟩
  exact ⟨fun _ ha => writeCommand_id_ok hi ha, fun _ ha => writeCommand_fail hi ha,
    writeCommand_congr_header (writeHeader_flip_bit7 addr) value _ s, decodeWord_xwr addr value⟩

/-- Settles O19: length 0 is refused first; from the entry condition the three outcomes of the two serial calls follow, and the
bytes answered are those of `rxBytes`. -/
theorem xrdReadsRegisters : Obligations.XrdReadsRegisters := by
  intro s addr n
  refine ⟨fun h0 => ?_, fun hn hcs hph => ?_, readCommand_congr_header (readHeader_flip_bit7 addr) n _ s, fun hle => ?_⟩
  · subst h0; exact readCommand_length
  · have hi : s.busIdle = true := State.busIdle_iff.mpr ⟨hcs, hph⟩
    exact ⟨fun _ given ha ha' => ⟨rxBytes n given (s.draws + 1), rxBytes_length _ _ _, fun hg => rxBytes_of_length hg _,
        readCommand_ok (payload := fun bs => .bytes bs) hn hi ha ha'⟩,
      fun _ ha => readCommand_txFail hn hi ha, fun _ _ ha ha' => readCommand_rxFail hn hi ha ha'⟩
  · have hlen : (BitVec.ofNat 8 n).toNat = n := Nat.mod_eq_of_lt (by omega)
    have hword := decodeWord_xrd addr (BitVec.ofNat 8 n)
    rwa [hlen] at hword

/-! ### What the two commands do not look at -/

/-- A transaction runs from `s'` as from `s`, up to `g` on the state it leaves: the two states agree on what a transaction reads
(the entry condition, the coming answers, the number of the draw), and `g` maps every end state of the one to that of the
other. -/
structure SameTransactions (s s' : State) (g : State → State) : Prop where
  busIdle : s'.busIdle = s.busIdle
  answerAt : ∀ k, s'.answerAt k = s.answerAt k
  draws : s'.draws = s.draws
  finished : ∀ calls ev st p, s'.finished calls ev st p = g (s.finished calls ev st p)
  stuckIn : ∀ ph calls ev, s'.stuckIn ph calls ev = g (s.stuckIn ph calls ev)

@[simp] theorem mapNext_next (f : State → State) (t : State) : mapNext f (.next t) = .next (f t) := rfl

@[simp] theorem mapNext_refused (f : State → State) (r : Refusal) : mapNext f (.refused r) = .refused r := rfl

/-- A write with nothing to commit depends on the state only through what a transaction reads. -/
theorem writeCommand_id_map {s s' : State} {g : State → State} (h : SameTransactions s s' g) (addr value : Byte) :
    writeCommand addr value (fun t => t) s' = mapNext g (writeCommand addr value (fun t => t) s) := by
  cases hi : s.busIdle with
  | false => rw [writeCommand_refuses hi, writeCommand_refuses (h.busIdle.trans hi), mapNext_refused]
  | true =>
    have hi' := h.busIdle.trans hi
    have ha' := h.answerAt 0
    cases ha : s.answerAt 0 with
    | ok bs => rw [writeCommand_id_ok hi ha, writeCommand_id_ok hi' (ha'.trans ha), mapNext_next, h.finished]
    | fail k => rw [writeCommand_fail hi ha, writeCommand_fail hi' (ha'.trans ha), mapNext_next, h.finished]
    | hang => rw [writeCommand_hang hi ha, writeCommand_hang hi' (ha'.trans ha), mapNext_next, h.stuckIn]

/-- A read depends on the state only through what a transaction reads. -/
theorem readCommand_map {s s' : State} {g : State → State} (h : SameTransactions s s' g) (addr : Byte) (n : Nat)
    (payload : List Byte → Payload) : readCommand addr n payload s' = mapNext g (readCommand addr n payload s) := by
  obtain rfl | hn : n = 0 ∨ 1 ≤ n := by omega
  · rw [readCommand_length, readCommand_length, mapNext_next, h.finished]
  cases hi : s.busIdle with
  | false => rw [readCommand_refuses hn hi, readCommand_refuses hn (h.busIdle.trans hi), mapNext_refused]
  | true =>
    have hi' := h.busIdle.trans hi
    have ha' := h.answerAt 0
    have hb' := h.answerAt 1
    cases ha : s.answerAt 0 with
    | fail k => rw [readCommand_txFail hn hi ha, readCommand_txFail hn hi' (ha'.trans ha), mapNext_next, h.finished]
    | hang => rw [readCommand_txHang hn hi ha, readCommand_txHang hn hi' (ha'.trans ha), mapNext_next, h.stuckIn]
    | ok bs =>
      rw [ha] at ha'
      cases hb : s.answerAt 1 with
      | ok given =>
        rw [readCommand_ok hn hi ha hb, readCommand_ok hn hi' ha' (hb'.trans hb), mapNext_next, h.draws, h.finished]
      | fail k => rw [readCommand_rxFail hn hi ha hb, readCommand_rxFail hn hi' ha' (hb'.trans hb), mapNext_next, h.finished]
      | hang => rw [readCommand_rxHang hn hi ha hb, readCommand_rxHang hn hi' ha' (hb'.trans hb), mapNext_next, h.stuckIn]

/-- No transaction reads or writes the Device Handle or the side operands (R110). -/
theorem sameTransactions_handle (s : State) (d : DState) (m : Option WMode) (R N r n : Option Rat) :
    SameTransactions s { s with dstate := d, wmode := m, rref := R, rnom := N, argR := r, argN := n }
      (fun t => { t with dstate := d, wmode := m, rref := R, rnom := N, argR := r, argN := n }) where
  busIdle := rfl
  answerAt _ := rfl
  draws := rfl
  finished _ _ _ _ := rfl
  stuckIn _ _ _ := rfl

/-- Settles O23: each of the two commands is one transaction and no more. -/
theorem transportIgnoresHandle : Obligations.TransportIgnoresHandle := by
  rintro i s d m R N r n (⟨addr, value, rfl⟩ | ⟨addr, k, rfl⟩)
  · exact writeCommand_id_map (sameTransactions_handle s d m R N r n) addr value
  · exact readCommand_map (sameTransactions_handle s d m R N r n) addr k _

/-! ### One bracket -/

/-- What a transaction that ended shows inside its bracket: one frame sent whole, or the serial call in which it failed (R113,
R120). -/
def FrameEvents (mid : List BusEvent) : Prop :=
  (∃ sent, mid = [.tx sent]) ∨ (∃ part, mid = [.txFail part]) ∨
    (∃ header got, mid = [.tx [header], .rx got]) ∨ (∃ header, mid = [.tx [header], .rxFail])

/-- No chip-select event stands inside a bracket (R114). -/
theorem FrameEvents.cs_notMem {mid : List BusEvent} (h : FrameEvents mid) : .csLow ∉ mid ∧ .csHigh ∉ mid := by
  obtain ⟨_, rfl⟩ | ⟨_, rfl⟩ | ⟨_, _, rfl⟩ | ⟨_, rfl⟩ := h <;> simp

/-- Between `s` and `t` the bus showed exactly one bracket, in one or two serial calls. -/
def OneBracket (s t : State) : Prop :=
  ∃ mid, FrameEvents mid ∧ t.trace = s.trace ++ ([.csLow] ++ mid ++ [.csHigh]) ∧
    s.draws < t.draws ∧ t.draws ≤ s.draws + 2

/-- A command's end state shows nothing on the bus, or one bracket, or it is that of a call that never returned, which adds no
response (R114, R123). -/
theorem exec_bus_cases {i : Instr} {s t : State} (h : exec i s = .next t) :
    (t.trace = s.trace ∧ t.draws = s.draws) ∨ OneBracket s t ∨ t.responses = s.responses := by
  cases exec_shape h with
  | rejected | deinit => exact .inl ⟨List.append_nil _, rfl⟩
  | configured | wrote =>
    exact .inr (.inl ⟨_, .inl ⟨_, rfl⟩, rfl, Nat.lt_succ_self _, Nat.le_succ _⟩)
  | txFailed =>
    exact .inr (.inl ⟨_, .inr (.inl ⟨_, rfl⟩), rfl, Nat.lt_succ_self _, Nat.le_succ _⟩)
  | read =>
    exact .inr (.inl ⟨_, .inr (.inr (.inl ⟨_, _, rfl⟩)), rfl, Nat.lt_add_of_pos_right Nat.two_pos, le_rfl⟩)
  | rxFailed =>
    exact .inr (.inl ⟨_, .inr (.inr (.inr ⟨_, rfl⟩)), rfl, Nat.lt_add_of_pos_right Nat.two_pos, le_rfl⟩)
  | txHangs | rxHangs => exact .inr (.inr rfl)

/-- Settles O41: a new response rules out the last case of `exec_bus_cases`. -/
theorem everyTransactionIsOneBracket : Obligations.EveryTransactionIsOneBracket := by
  intro i s t r h hr
  obtain hquiet | ⟨mid, hframe, htrace, hlo, hhi⟩ | hsame := exec_bus_cases h
  · exact ⟨[], .inl hquiet⟩
  · exact ⟨mid, .inr ⟨htrace, hframe.cs_notMem.1, hframe.cs_notMem.2, hlo, hhi, hframe⟩⟩
  · simp [hsame] at hr

end Sys2Proof.Machine
end

section
/-! PROOFS. The statements of the configuration (spec/41_config.md): the configuration byte (R141), what `INIT` checks (R144), writes
and holds (R143, R145, R147), and what `DEINIT` ends (R149). -/

namespace Sys2Proof

/-! ### The words of `INIT` and `DEINIT` -/

/-- The operand byte `A` of `INIT` has no reserved bit set (R89). -/
@[simp] theorem above2_modeByte (mode : BitVec 2) : above2 (modeByte mode) = 0#6 := by
  revert mode; decide

/-- The mode field is read back from the operand byte `A` (R91). -/
@[simp] theorem extractLsb'_modeByte (mode : BitVec 2) : (modeByte mode).extractLsb' 0 2 = mode := by
  revert mode; decide

/-- The operand byte `B` of two flags has no reserved bit set (R89). -/
@[simp] theorem above2_flagByte (ur un : Bool) : above2 (flagByte ur un) = 0#6 := by
  revert ur un; decide

/-- `UR` is bit 0 of the operand byte `B` (R92). -/
@[simp] theorem getElem_zero_flagByte (ur un : Bool) : (flagByte ur un)[0] = ur := by
  revert ur un; decide

/-- `UN` is bit 1 of the operand byte `B` (R92). -/
@[simp] theorem getElem_one_flagByte (ur un : Bool) : (flagByte ur un)[1] = un := by
  revert ur un; decide

/-- Row `INIT` of R89, with the operation 0x10 and `C` 0. -/
theorem decodeWord_init (mode : BitVec 2) (ur un : Bool) :
    decodeWord (commandWord 0x10#8 (modeByte mode) (flagByte ur un) 0x00#8) = .ok (.init mode ur un) := by
  simp [decodeWord, decodeOp, reservedZero]

/-- Row `DEINIT` of R89, with the operation 0x1F and every other byte 0. -/
theorem decodeWord_deinit : decodeWord (commandWord 0x1F#8 0x00#8 0x00#8 0x00#8) = .ok .deinit := by
  simp [decodeWord, decodeOp, reservedZero]

end Sys2Proof

namespace Sys2Proof.Machine

/-! ### The configuration byte -/

/-- Bit 4 selects 3-wire (R29, R141). -/
theorem cfgThreeWire_cfg_iff (m : WMode) : cfgThreeWire (cfg m) = true ↔ m = .w3 := by
  cases m <;> decide

/-- The wiring mode decides bit 4 alone (R141). -/
theorem cfg_and_not_bit4 (m : WMode) : cfg m &&& ~~~0x10#8 = 0xC2#8 &&& ~~~0x10#8 := by
  cases m <;> rfl

/-- Every configuration byte written turns bias voltage on (R29, R141). -/
theorem cfgVbias_cfg (m : WMode) : cfgVbias (cfg m) = true := by
  cases m <;> rfl

/-- Every configuration byte written asks for automatic conversion (R29, R141). -/
theorem cfgAutomatic_cfg (m : WMode) : cfgAutomatic (cfg m) = true := by
  cases m <;> rfl

/-- Settles O24: the three bytes by evaluation, and their bits mode by mode. -/
theorem configurationByte : Obligations.ConfigurationByte :=
  ⟨rfl, rfl, rfl, fun m => ⟨cfgThreeWire_cfg_iff m, cfg_and_not_bit4 m, cfgVbias_cfg m, cfgAutomatic_cfg m⟩⟩

/-- The three mode fields that name a wiring mode, with the mode and its byte (R91, R141). -/
theorem wmodeOfField_and_cfg_of_mem {mode : BitVec 2} {m : WMode} {byte : Byte}
    (h : (mode, m, byte) ∈ [(0b00#2, WMode.w2, 0xC2#8), (0b01#2, .w3, 0xD2#8), (0b10#2, .w4, 0xC2#8)]) :
    wmodeOfField mode = some m ∧ cfg m = byte := by
  simp only [List.mem_cons, Prod.mk.injEq, List.not_mem_nil, or_false] at h
  obtain ⟨rfl, rfl, rfl⟩ | ⟨rfl, rfl, rfl⟩ | ⟨rfl, rfl, rfl⟩ := h <;> exact ⟨rfl, rfl⟩

/-! ### A resistance operand -/

/-- A positive operand is in its domain (R92). -/
theorem positive_some {q : Rat} (hq : 0 < q) : positive (some q) = some q := if_pos hq

/-- `positive` lets nothing of an invalid operand through (R144, D12). -/
theorem positive_eq_none_of_invalid {o : Option Rat} (h : Invalid o) : positive o = none := by
  cases o with
  | none => rfl
  | some q => exact if_neg (not_lt.mpr (h q rfl))

/-- A selected operand that is invalid fails its check (R144). -/
theorem positive_selected_eq_none {flag : Bool} {arg : Option Rat} (hf : flag = true) (h : Invalid arg) (other : Option Rat) :
    positive (selected flag arg other) = none := by
  rw [selected, if_pos hf, positive_eq_none_of_invalid h]

/-- The resistance selected is the side operand where the flag is 1 and the default where it is 0 (R143). -/
theorem positive_selected_eq_some {flag : Bool} {arg : Option Rat} {q default : Rat} (harg : flag = true → arg = some q)
    (hdefault : flag = false → q = default) (hq : 0 < q) : positive (selected flag arg (some default)) = some q := by
  cases flag with
  | true => exact harg rfl ▸ positive_some hq
  | false => exact hdefault rfl ▸ positive_some hq

/-! ### `INIT`, check by check -/

/-- The first check of `INIT` (R144, R148). -/
theorem execInit_eState {s : State} (hd : s.dstate = .configured) (mode : BitVec 2) (ur un : Bool) :
    execInit mode ur un s = .next (s.finished 0 [] .eState .none) := by
  rw [execInit, if_pos hd, State.raise_eq_finished]

/-- On an unconfigured block `INIT` is rejected where the mode field names no mode or one of the two resistances is not positive
(R144). -/
theorem execInit_eParam {s : State} {mode : BitVec 2} {ur un : Bool} (hd : s.dstate = .unconfigured)
    (h : wmodeOfField mode = none ∨ positive (selected ur s.argR (some rrefDefault)) = none ∨
      positive (selected un s.argN (some rnomDefault)) = none) :
    execInit mode ur un s = .next (s.finished 0 [] .eParam .none) := by
  rw [execInit, if_neg (by simp [hd]), State.raise_eq_finished]
  cases hm : wmodeOfField mode with
  | none => rfl
  | some m =>
    cases hR : positive (selected ur s.argR (some rrefDefault)) with
    | none => rfl
    | some R =>
      obtain hm' | hR' | hN := h
      · simp [hm] at hm'
      · simp [hR] at hR'
      · simp [hN]

/-- An `INIT` that passes its checks is the write of the mode's configuration byte (R145). -/
theorem execInit_eq_writeCommand {s : State} {mode : BitVec 2} {ur un : Bool} {m : WMode} {R N : Rat}
    (hd : s.dstate = .unconfigured) (hm : wmodeOfField mode = some m)
    (hR : positive (selected ur s.argR (some rrefDefault)) = some R)
    (hN : positive (selected un s.argN (some rnomDefault)) = some N) :
    execInit mode ur un s = writeCommand configAddr (cfg m) (fun t => t.configure m R N) s := by
  simp [execInit, hd, hm, hR, hN]

/-- A write that holds a mode and two resistances once its frame went out (R145). -/
theorem writeCommand_configure_ok {addr value : Byte} {m : WMode} {R N : Rat} {bs : List Byte} {s : State}
    (hi : s.busIdle = true) (h : s.answerAt 0 = .ok bs) :
    writeCommand addr value (fun t => t.configure m R N) s =
      .next ((s.configure m R N).finished 1 [.csLow, .tx [addr ||| 0x80#8, value], .csHigh] .ok .none) := by
  rw [writeCommand_ok hi h, ← State.bracketed_respond (s := s.configure m R N) hi]; rfl

/-- Settles O25: the state is checked first, and each of the three bad operands fails one of the later checks. -/
theorem initChecks : Obligations.InitChecks := by
  refine fun s mode ur un => ⟨fun hd => execInit_eState hd mode ur un, fun hd h => execInit_eParam hd ?_⟩
  obtain hmode | ⟨hur, hr⟩ | ⟨hun, hn⟩ := h
  · exact .inl (wmodeOfField_eq_none.mpr hmode)
  · exact .inr (.inl (positive_selected_eq_none hur hr _))
  · exact .inr (.inr (positive_selected_eq_none hun hn _))

/-- Settles O26: past the checks of `initChecks` the command is the write of the mode's byte, and the two outcomes of its one serial
call are those of a write command. -/
theorem initConfigures : Obligations.InitConfigures := by
  intro s mode ur un
  obtain ⟨hstate, hparam⟩ := initChecks s mode ur un
  refine ⟨hstate, hparam, ?_, decodeWord_init mode ur un⟩
  intro m byte R N hcs hph hd hrow hargR hdefR hargN hdefN hR hN
  obtain ⟨hm, rfl⟩ := wmodeOfField_and_cfg_of_mem hrow
  have hi : s.busIdle = true := State.busIdle_iff.mpr ⟨hcs, hph⟩
  have hwrite : exec (.init mode ur un) s = writeCommand configAddr (cfg m) (fun t => t.configure m R N) s :=
    execInit_eq_writeCommand hd hm (positive_selected_eq_some hargR hdefR hR) (positive_selected_eq_some hargN hdefN hN)
  exact ⟨fun _ ha => hwrite.trans (writeCommand_configure_ok hi ha), fun _ ha => hwrite.trans (writeCommand_fail hi ha)⟩

/-! ### `DEINIT` -/

/-- Settles O27: `DEINIT` checks nothing and makes no serial call. -/
theorem deinitEndsHandle : Obligations.DeinitEndsHandle :=
  ⟨decodeWord_deinit, fun _ => rfl⟩

end Sys2Proof.Machine
end

section
/-! PROOFS. The statements of the conversion (spec/42_conversion.md): the arithmetic of its stages (R161, R163 to R165, R167) and of
the tolerance (R171), and what `RDRAW`, `RDRES` and `RDTMP` check, read and answer (R160, R162, R163, R166, R169). -/

namespace Sys2Proof

/-! ### The words of the conversion commands -/

/-- Row `RDRAW` of R89, with the operation 0x11 and every other byte 0. -/
theorem decodeWord_rdraw : decodeWord (commandWord 0x11#8 0x00#8 0x00#8 0x00#8) = .ok .rdraw := by
  simp [decodeWord, decodeOp, reservedZero]

/-- The operand byte `B` of `RDRES` holds `UR` alone (R89). -/
theorem flagByte_ur (ur : Bool) : flagByte ur false = 0#7 ++ BitVec.ofBool ur := by
  cases ur <;> rfl

/-- The operand byte `B` of `RDRES` has no reserved bit set (R89). -/
@[simp] theorem above1_flagByte_ur (ur : Bool) : above1 (flagByte ur false) = 0#7 := by
  revert ur; decide

/-- Row `RDRES` of R89, with the operation 0x12 and `A` and `C` 0. -/
theorem decodeWord_rdres (ur : Bool) :
    decodeWord (commandWord 0x12#8 0x00#8 (flagByte ur false) 0x00#8) = .ok (.rdres ur) := by
  simp [decodeWord, decodeOp, reservedZero]

/-- Row `RDTMP` of R89, with the operation 0x13 and `A` and `C` 0. -/
theorem decodeWord_rdtmp (ur un : Bool) :
    decodeWord (commandWord 0x13#8 0x00#8 (flagByte ur un) 0x00#8) = .ok (.rdtmp ur un) := by
  simp [decodeWord, decodeOp, reservedZero]

end Sys2Proof

namespace Sys2Proof.Machine

/-! ### The raw code -/

/-- The pair is big-endian (R161). -/
theorem rtdPair_toNat (b0 b1 : Byte) : (rtdPair b0 b1).toNat = 256 * b0.toNat + b1.toNat := by
  have h0 := b0.isLt
  have h1 := b1.isLt
  have hshift : (b0.setWidth 16 <<< 8).toNat = b0.toNat <<< 8 := by
    rw [BitVec.toNat_shiftLeft, BitVec.toNat_setWidth_of_le (by decide), Nat.shiftLeft_eq]
    omega
  rw [rtdPair, BitVec.toNat_or, hshift, BitVec.toNat_setWidth_of_le (by decide), ← Nat.shiftLeft_add_eq_or_of_lt h1,
    Nat.shiftLeft_eq]
  omega

/-- The raw code is the pair halved (R161). -/
theorem rawCode_toNat (b0 b1 : Byte) : (rawCode b0 b1).toNat = (256 * b0.toNat + b1.toNat) / 2 := by
  rw [rawCode, BitVec.toNat_ushiftRight, rtdPair_toNat, Nat.shiftRight_eq_div_pow]

/-- The fault flag is the parity of the second byte (R30). -/
theorem faultFlag_eq_false_iff {b : Byte} : faultFlag b = false ↔ b.toNat % 2 = 0 := by
  revert b; decide

/-- Flipping the fault flag of a byte keeps its other bits. -/
theorem toNat_flip_div_two (b : Byte) : (b ^^^ 0x01#8).toNat / 2 = b.toNat / 2 := by
  revert b; decide

/-- Flipping the fault flag of a byte changes its parity. -/
theorem toNat_flip_mod_two (b : Byte) : (b ^^^ 0x01#8).toNat % 2 = 1 - b.toNat % 2 := by
  revert b; decide

/-- The raw code does not see the fault flag (R163). -/
theorem rawCode_flip (b0 b1 : Byte) : rawCode b0 (b1 ^^^ 0x01#8) = rawCode b0 b1 := by
  apply BitVec.eq_of_toNat_eq
  have := toNat_flip_div_two b1
  rw [rawCode_toNat, rawCode_toNat]
  omega

/-- Two bytes with the same upper seven bits differ at most in the fault flag. -/
theorem eq_or_eq_flip_of_div_two_eq {b c : Byte} (h : c.toNat / 2 = b.toNat / 2) : c = b ∨ c = b ^^^ 0x01#8 := by
  have hdiv := toNat_flip_div_two b
  have hmod := toNat_flip_mod_two b
  obtain hsame | hflip : c.toNat % 2 = b.toNat % 2 ∨ c.toNat % 2 = 1 - b.toNat % 2 := by omega
  · exact .inl (BitVec.eq_of_toNat_eq (by omega))
  · exact .inr (BitVec.eq_of_toNat_eq (by omega))

/-- Two pairs have the same raw code only where they agree but for the fault flag (R163). -/
theorem eq_of_rawCode_toNat_eq {b0 b1 c0 c1 : Byte} (h : (rawCode c0 c1).toNat = (rawCode b0 b1).toNat) :
    c0 = b0 ∧ (c1 = b1 ∨ c1 = b1 ^^^ 0x01#8) := by
  have hb := b1.isLt
  have hc := c1.isLt
  rw [rawCode_toNat, rawCode_toNat] at h
  exact ⟨BitVec.eq_of_toNat_eq (by omega), eq_or_eq_flip_of_div_two_eq (by omega)⟩

/-- Every value up to 32767 is a raw code, with the fault flag clear (R164). -/
theorem exists_rawCode_toNat_eq {r : Nat} (hr : r ≤ 32767) :
    ∃ b0 b1 : Byte, faultFlag b1 = false ∧ (rawCode b0 b1).toNat = r := by
  have h0 : (BitVec.ofNat 8 (r / 128)).toNat = r / 128 := Nat.mod_eq_of_lt (by omega)
  have h1 : (BitVec.ofNat 8 (2 * (r % 128))).toNat = 2 * (r % 128) := Nat.mod_eq_of_lt (by omega)
  refine ⟨BitVec.ofNat 8 (r / 128), BitVec.ofNat 8 (2 * (r % 128)), ?_, ?_⟩
  · rw [faultFlag_eq_false_iff, h1]; omega
  · rw [rawCode_toNat, h0, h1]; omega

/-- Settles O33: the pair with the fault flag clear, the same pair with it set, and no other. -/
theorem rawCodeArithmetic : Obligations.RawCodeArithmetic := by
  refine ⟨fun b0 b1 => ⟨rtdPair_toNat b0 b1, rawCode_toNat b0 b1, rawCode_le b0 b1⟩, fun r hr => ?_⟩
  obtain ⟨b0, b1, hflag, rfl⟩ := exists_rawCode_toNat_eq hr
  exact ⟨b0, b1, hflag, rfl, by rw [rawCode_flip], fun c0 c1 h => eq_of_rawCode_toNat_eq h⟩

/-! ### Resistance, temperature and tolerance -/

theorem resistance_nonneg (r : Nat) {R : Rat} (hR : 0 < R) : 0 ≤ resistance r R := by
  unfold resistance; positivity

/-- A raw code stays below 32768, so the resistance stays below the reference (R165). -/
theorem resistance_lt {r : Nat} {R : Rat} (hr : r ≤ 32767) (hR : 0 < R) : resistance r R < R := by
  have hr' : (r : Rat) < 32768 := by exact_mod_cast Nat.lt_succ_of_le hr
  rw [resistance, div_lt_iff₀ (by norm_num), mul_comm R]
  exact mul_lt_mul_of_pos_right hr' hR

theorem resistance_eq_zero_iff {r : Nat} {R : Rat} (hR : 0 < R) : resistance r R = 0 ↔ r = 0 := by
  simp [resistance, hR.ne']

/-- Settles O35, law by law. -/
theorem resistanceLaws : Obligations.ResistanceLaws :=
  fun r _ hr hR => ⟨rfl, resistance_nonneg r hR, resistance_lt hr hR, resistance_eq_zero_iff hR⟩

/-- The second form of R167, one quotient. -/
theorem temperature_eq_div (rho : Rat) {N : Rat} (hN : 0 < N) : temperature rho N = (rho - N) * 20000 / (77 * N) := by
  have hN' := hN.ne'
  unfold temperature
  field_simp

theorem temperature_neg_iff {rho N : Rat} (hN : 0 < N) : temperature rho N < 0 ↔ rho < N := by
  have hden : 0 < 77 * N := by positivity
  rw [temperature_eq_div rho hN, div_lt_iff₀ hden, zero_mul]
  constructor <;> intro _ <;> linarith

theorem temperature_eq_zero_iff {rho N : Rat} (hN : 0 < N) : temperature rho N = 0 ↔ rho = N := by
  simp [temperature_eq_div rho hN, hN.ne', sub_eq_zero]

/-- Settles O36: sign and zero are read off the second form. -/
theorem temperatureLaws : Obligations.TemperatureLaws :=
  fun rho _ hN => ⟨rfl, temperature_eq_div rho hN, temperature_neg_iff hN, temperature_eq_zero_iff hN⟩

/-- Only 0 conforms to 0 (R171). -/
theorem conforms_zero_iff {y : Rat} : Conforms 0 y ↔ y = 0 := by
  simp [Conforms]

/-- Settles O40: the tolerance is the same number written as a product or as a quotient. -/
theorem conformanceTolerance : Obligations.ConformanceTolerance :=
  fun x y => ⟨by rw [Conforms, one_div_mul_eq_div], conforms_zero_iff⟩

/-! ### A selected operand -/

/-- An invalid operand that is selected is a bad override (R168). -/
theorem overrideBad_of_invalid {flag : Bool} {arg : Option Rat} (hf : flag = true) (h : Invalid arg) :
    overrideBad flag arg = true := by
  simp [overrideBad, hf, positive_eq_none_of_invalid h]

/-- An override that passes the selection is not bad. -/
theorem overrideBad_of_positive {flag : Bool} {arg held : Option Rat} {q : Rat}
    (h : positive (selected flag arg held) = some q) : overrideBad flag arg = false :=
  overrideBad_of_ready (held := held) (by simp [resistanceReady, h])

/-- The resistance selected is the side operand where the flag is 1 and the element of the handle where it is 0 (R168). -/
theorem positive_selected_held {flag : Bool} {arg held : Option Rat} {q : Rat} (harg : flag = true → arg = some q)
    (hheld : flag = false → held = some q) (hq : 0 < q) : positive (selected flag arg held) = some q := by
  cases flag with
  | true => exact harg rfl ▸ positive_some hq
  | false => exact hheld rfl ▸ positive_some hq

/-! ### The raw read -/

/-- The raw read with the payload made of the number of its raw code: the shape of the three commands' transactions (R162, R166,
R169, R176). -/
def rawCodeRead (p : Nat → Payload) (s : State) : Host.Outcome State Fault Refusal :=
  rawRead (fun bs => p (rawOfBytes bs).toNat) s

/-- `o` is what a raw read from `s` gives, for the outcomes of its two calls that return: the payload `p` of the raw code of the
two bytes, or `E_BUS` in the bracket of the call that failed (R162, R176). -/
def AnswersRawCode (s : State) (p : Nat → Payload) (o : Host.Outcome State Fault Refusal) : Prop :=
  (∀ bs given, s.answerAt 0 = .ok bs → s.answerAt 1 = .ok given →
    ∃ b0 b1 : Byte, (∀ c0 c1, given = [c0, c1] → b0 = c0 ∧ b1 = c1) ∧
      o = .next (s.finished 2 [.csLow, .tx [0x01#8], .rx [b0, b1], .csHigh] .ok
        (p ((256 * b0.toNat + b1.toNat) / 2)))) ∧
  (∀ k, s.answerAt 0 = .fail k → o = .next (s.finished 1 [.csLow, .txFail ([0x01#8].take k), .csHigh] .eBus .none)) ∧
  (∀ bs k, s.answerAt 0 = .ok bs → s.answerAt 1 = .fail k →
    o = .next (s.finished 2 [.csLow, .tx [0x01#8], .rxFail, .csHigh] .eBus .none))

/-- A raw read that received two bytes. -/
theorem rawCodeRead_ok {s : State} {bs given : List Byte} {b0 b1 : Byte} (hi : s.busIdle = true) (h : s.answerAt 0 = .ok bs)
    (h' : s.answerAt 1 = .ok given) (hrx : rxBytes 2 given (s.draws + 1) = [b0, b1]) (p : Nat → Payload) :
    rawCodeRead p s =
      .next (s.finished 2 [.csLow, .tx [0x01#8], .rx [b0, b1], .csHigh] .ok (p (rawCode b0 b1).toNat)) := by
  have hn : 1 ≤ rtdLength := by decide
  refine (readCommand_ok hn hi h h').trans ?_
  rw [rtdLength, hrx, rawOfBytes_two]; rfl

/-- From idle chip-select a raw read answers the raw code of the two bytes received. -/
theorem rawCodeRead_answers {s : State} (hcs : s.cs = .high) (hph : s.phase = .idle) (p : Nat → Payload) :
    AnswersRawCode s p (rawCodeRead p s) := by
  have hi : s.busIdle = true := State.busIdle_iff.mpr ⟨hcs, hph⟩
  have hn : 1 ≤ rtdLength := by decide
  refine ⟨fun bs given ha ha' => ?_, fun k ha => readCommand_txFail hn hi ha,
    fun bs k ha ha' => readCommand_rxFail hn hi ha ha'⟩
  obtain ⟨b0, b1, hrx, hgiven⟩ := rxBytes_two given (s.draws + 1)
  exact ⟨b0, b1, hgiven, rawCode_toNat b0 b1 ▸ rawCodeRead_ok hi ha ha' hrx p⟩

/-! ### The commands, check by check -/

/-- `RDRAW` needs the handle (R160). -/
theorem execRdraw_eState {s : State} (hd : s.dstate = .unconfigured) :
    execRdraw s = .next (s.finished 0 [] .eState .none) := by
  rw [execRdraw, if_neg (by simp [hd]), State.raise_eq_finished]

/-- On a configured block `RDRAW` is a raw read (R162). -/
theorem execRdraw_eq_rawCodeRead {s : State} (hd : s.dstate = .configured) :
    execRdraw s = rawCodeRead (fun r => .raw (BitVec.ofNat 16 r)) s := by
  simp [execRdraw, hd, rawCodeRead]

/-- `RDRES` needs the handle (R160). -/
theorem execRdres_eState {s : State} (hd : s.dstate = .unconfigured) (ur : Bool) :
    execRdres ur s = .next (s.finished 0 [] .eState .none) := by
  rw [execRdres, if_neg (by simp [hd]), State.raise_eq_finished]

/-- `RDRES` rejects a bad override (R166, R168). -/
theorem execRdres_eParam {s : State} {ur : Bool} (hd : s.dstate = .configured) (h : overrideBad ur s.argR = true) :
    execRdres ur s = .next (s.finished 0 [] .eParam .none) := by
  rw [execRdres, if_pos hd, if_pos h, State.raise_eq_finished]

/-- `RDRES` stops where no check rejects and the handle holds no positive reference (log 11). -/
theorem execRdres_fault {s : State} {ur : Bool} (hd : s.dstate = .configured) (h : overrideBad ur s.argR = false)
    (hR : positive (selected ur s.argR s.rref) = none) : execRdres ur s = .fault .noHandleValue := by
  simp [execRdres, hd, h, hR]

/-- An `RDRES` that passes its checks is a raw read (R166). -/
theorem execRdres_eq_rawCodeRead {s : State} {ur : Bool} {R : Rat} (hd : s.dstate = .configured)
    (hR : positive (selected ur s.argR s.rref) = some R) :
    execRdres ur s = rawCodeRead (fun r => .value (resistance r R)) s := by
  simp [execRdres, hd, hR, overrideBad_of_positive hR, rawCodeRead]

/-- `RDTMP` needs the handle (R160). -/
theorem execRdtmp_eState {s : State} (hd : s.dstate = .unconfigured) (ur un : Bool) :
    execRdtmp ur un s = .next (s.finished 0 [] .eState .none) := by
  rw [execRdtmp, if_neg (by simp [hd]), State.raise_eq_finished]

/-- `RDTMP` rejects a bad override (R168, R169). -/
theorem execRdtmp_eParam {s : State} {ur un : Bool} (hd : s.dstate = .configured)
    (h : overrideBad ur s.argR = true ∨ overrideBad un s.argN = true) :
    execRdtmp ur un s = .next (s.finished 0 [] .eParam .none) := by
  rw [execRdtmp, if_pos hd, State.raise_eq_finished]
  split
  · rfl
  next hur => rw [if_pos (h.resolve_left hur)]

/-- `RDTMP` stops where no check rejects and the handle lacks one of the two positive values (log 11). -/
theorem execRdtmp_fault {s : State} {ur un : Bool} (hd : s.dstate = .configured) (hur : overrideBad ur s.argR = false)
    (hun : overrideBad un s.argN = false)
    (h : positive (selected ur s.argR s.rref) = none ∨ positive (selected un s.argN s.rnom) = none) :
    execRdtmp ur un s = .fault .noHandleValue := by
  cases hR : positive (selected ur s.argR s.rref) with
  | none => cases hN : positive (selected un s.argN s.rnom) <;> simp [execRdtmp, hd, hur, hun, hR, hN]
  | some R =>
    have hN := h.resolve_left (by simp [hR])
    simp [execRdtmp, hd, hur, hun, hR, hN]

/-- An `RDTMP` that passes its checks is a raw read (R169). -/
theorem execRdtmp_eq_rawCodeRead {s : State} {ur un : Bool} {R N : Rat} (hd : s.dstate = .configured)
    (hR : positive (selected ur s.argR s.rref) = some R) (hN : positive (selected un s.argN s.rnom) = some N) :
    execRdtmp ur un s = rawCodeRead (fun r => .value (temperature (resistance r R) N)) s := by
  simp [execRdtmp, hd, hR, hN, overrideBad_of_positive hR, overrideBad_of_positive hN, rawCodeRead]

/-- Settles O28: each of the three checks `DSTATE` first. -/
theorem conversionsNeedHandle : Obligations.ConversionsNeedHandle :=
  fun _ ur un hd => ⟨execRdraw_eState hd, execRdres_eState hd ur, execRdtmp_eState hd ur un⟩

/-- Settles O29: a raw read with nothing to check but the state. -/
theorem rdrawReadsRawCode : Obligations.RdrawReadsRawCode := by
  refine ⟨decodeWord_rdraw, fun s => ⟨execRdraw_eState, fun hd hcs hph => ?_⟩⟩
  have hread : exec .rdraw s = _ := execRdraw_eq_rawCodeRead hd
  rw [hread]
  exact rawCodeRead_answers hcs hph _

/-- Settles O30: past its checks `RDRES` is the raw read whose payload is the resistance. -/
theorem rdresReadsResistance : Obligations.RdresReadsResistance := by
  refine ⟨fun ur => flagByte_ur ur ▸ decodeWord_rdres ur, fun s ur => ⟨fun hd => execRdres_eState hd ur,
    fun hd hur hr => execRdres_eParam hd (overrideBad_of_invalid hur hr), fun R hd hcs hph harg hheld hR => ?_⟩⟩
  have hread : exec (.rdres ur) s = _ := execRdres_eq_rawCodeRead hd (positive_selected_held harg hheld hR)
  rw [hread]
  exact rawCodeRead_answers hcs hph _

/-- Settles O31: past its checks `RDTMP` is the raw read whose payload is the temperature of the resistance. -/
theorem rdtmpReadsTemperature : Obligations.RdtmpReadsTemperature := by
  refine ⟨decodeWord_rdtmp, fun s ur un => ⟨fun hd => execRdtmp_eState hd ur un, fun hd hbad => execRdtmp_eParam hd ?_,
    fun R N hd hcs hph hargR hheldR hargN hheldN hR hN => ?_⟩⟩
  · exact hbad.imp (fun ⟨hur, hr⟩ => overrideBad_of_invalid hur hr) (fun ⟨hun, hn⟩ => overrideBad_of_invalid hun hn)
  · have hread : exec (.rdtmp ur un) s = _ := execRdtmp_eq_rawCodeRead hd (positive_selected_held hargR hheldR hR)
      (positive_selected_held hargN hheldN hN)
    rw [hread]
    exact rawCodeRead_answers hcs hph _

/-! ### The fault flag -/

/-- `i` is one of the three conversion commands (R160). -/
def IsConversion (i : Instr) : Prop := i = .rdraw ∨ (∃ ur, i = .rdres ur) ∨ (∃ ur un, i = .rdtmp ur un)

/-- `s` with the answers of the coming serial calls lined up (log 2). -/
def State.withAnswers (s : State) (as : List SpiAnswer) : State := { s with answers := as }

/-- What a conversion command comes to is decided by its checks before any serial call, so it is the same whatever answers are lined
up: a rejection, a fault, or a raw read with one payload of the raw code (R175, R176). -/
theorem exec_conversion_cases {i : Instr} (hi : IsConversion i) (s : State) :
    (∃ e, ∀ as, exec i (s.withAnswers as) = .next ((s.withAnswers as).finished 0 [] e .none)) ∨
    (∃ f, ∀ as, exec i (s.withAnswers as) = .fault f) ∨
    (∃ p, ∀ as, exec i (s.withAnswers as) = rawCodeRead p (s.withAnswers as)) := by
  cases hd : s.dstate with
  | unconfigured =>
    obtain rfl | ⟨ur, rfl⟩ | ⟨ur, un, rfl⟩ := hi
    · exact .inl ⟨_, fun _ => execRdraw_eState hd⟩
    · exact .inl ⟨_, fun as => execRdres_eState (s := s.withAnswers as) hd ur⟩
    · exact .inl ⟨_, fun as => execRdtmp_eState (s := s.withAnswers as) hd ur un⟩
  | configured =>
    obtain rfl | ⟨ur, rfl⟩ | ⟨ur, un, rfl⟩ := hi
    · exact .inr (.inr ⟨_, fun _ => execRdraw_eq_rawCodeRead hd⟩)
    · cases hur : overrideBad ur s.argR with
      | true => exact .inl ⟨_, fun _ => execRdres_eParam hd hur⟩
      | false =>
        cases hR : positive (selected ur s.argR s.rref) with
        | none => exact .inr (.inl ⟨_, fun _ => execRdres_fault hd hur hR⟩)
        | some R => exact .inr (.inr ⟨_, fun _ => execRdres_eq_rawCodeRead hd hR⟩)
    · cases hur : overrideBad ur s.argR with
      | true => exact .inl ⟨_, fun _ => execRdtmp_eParam hd (.inl hur)⟩
      | false =>
        cases hun : overrideBad un s.argN with
        | true => exact .inl ⟨_, fun _ => execRdtmp_eParam hd (.inr hun)⟩
        | false =>
          cases hR : positive (selected ur s.argR s.rref) with
          | none => exact .inr (.inl ⟨_, fun _ => execRdtmp_fault hd hur hun (.inl hR)⟩)
          | some R =>
            cases hN : positive (selected un s.argN s.rnom) with
            | none => exact .inr (.inl ⟨_, fun _ => execRdtmp_fault hd hur hun (.inr hN)⟩)
            | some N => exact .inr (.inr ⟨_, fun _ => execRdtmp_eq_rawCodeRead hd hR hN⟩)

/-- `s` with the answers of a raw read lined up: the first call's, and the two bytes of the second. -/
def State.lineUp (s : State) (first : SpiAnswer) (b0 b1 : Byte) (rest : List SpiAnswer) : State :=
  s.withAnswers (first :: .ok [b0, b1] :: rest)

/-- A bus event with the fault flag of the two bytes flipped, where it shows them. -/
def flipEvent (b0 b1 : Byte) (e : BusEvent) : BusEvent := if e = .rx [b0, b1] then .rx [b0, b1 ^^^ 0x01#8] else e

/-- The end state of a command run from `s` with the fault flag flipped where the two bytes are on record: in the events shown since
`s`, and among the answers not yet taken (R163). -/
def State.flipRecord (s : State) (first : SpiAnswer) (b0 b1 : Byte) (rest : List SpiAnswer) (t : State) : State :=
  { t with
    trace := s.trace ++ (t.trace.drop s.trace.length).map (flipEvent b0 b1)
    answers := (first :: .ok [b0, b1 ^^^ 0x01#8] :: rest).drop (t.draws - s.draws) }

theorem State.flipRecord_finished (s : State) (first : SpiAnswer) (b0 b1 : Byte) (rest : List SpiAnswer) (calls : Nat)
    (ev : List BusEvent) (st : Status) (p : Payload) :
    s.flipRecord first b0 b1 rest ((s.lineUp first b0 b1 rest).finished calls ev st p) =
      (s.lineUp first b0 (b1 ^^^ 0x01#8) rest).finished calls (ev.map (flipEvent b0 b1)) st p := by
  simp [State.flipRecord, State.finished, State.lineUp, State.withAnswers]

theorem State.flipRecord_stuckIn (s : State) (first : SpiAnswer) (b0 b1 : Byte) (rest : List SpiAnswer) (ph : Phase)
    (calls : Nat) (ev : List BusEvent) :
    s.flipRecord first b0 b1 rest ((s.lineUp first b0 b1 rest).stuckIn ph calls ev) =
      (s.lineUp first b0 (b1 ^^^ 0x01#8) rest).stuckIn ph calls (ev.map (flipEvent b0 b1)) := by
  simp [State.flipRecord, State.stuckIn, State.lineUp, State.withAnswers]

/-- A raw read does not see the fault flag (R163): its bytes reach the payload through `rawCode` alone. -/
theorem rawCodeRead_flip (p : Nat → Payload) (s : State) (first : SpiAnswer) (b0 b1 : Byte) (rest : List SpiAnswer) :
    rawCodeRead p (s.lineUp first b0 (b1 ^^^ 0x01#8) rest) =
      mapNext (s.flipRecord first b0 b1 rest) (rawCodeRead p (s.lineUp first b0 b1 rest)) := by
  have hn : 1 ≤ rtdLength := by decide
  cases hi : s.busIdle with
  | false =>
    have hrefuse (b : Byte) : rawCodeRead p (s.lineUp first b0 b rest) = .refused .transactionNotIdle :=
      readCommand_refuses hn hi
    rw [hrefuse, hrefuse, mapNext_refused]
  | true =>
    cases first with
    | ok bs =>
      have hok (b : Byte) : rawCodeRead p (s.lineUp (.ok bs) b0 b rest) = _ :=
        rawCodeRead_ok (s := s.lineUp (.ok bs) b0 b rest) hi (State.answerAt_lined_up rfl) (State.answerAt_lined_up rfl)
          (rxBytes_of_length rfl _) p
      rw [hok, hok, mapNext_next, State.flipRecord_finished, rawCode_flip]
      simp [flipEvent]
    | fail k =>
      have hfail (b : Byte) : rawCodeRead p (s.lineUp (.fail k) b0 b rest) = _ :=
        readCommand_txFail hn hi (State.answerAt_lined_up rfl)
      rw [hfail, hfail, mapNext_next, State.flipRecord_finished]
      simp [flipEvent]
    | hang =>
      have hhang (b : Byte) : rawCodeRead p (s.lineUp .hang b0 b rest) = _ :=
        readCommand_txHang hn hi (State.answerAt_lined_up rfl)
      rw [hhang, hhang, mapNext_next, State.flipRecord_stuckIn]
      simp [flipEvent]

/-- Settles O34: a rejection and a fault make no serial call, and a raw read does not see the flag. -/
theorem faultFlagInvisible : Obligations.FaultFlagInvisible := by
  intro i s first b0 b1 rest hi
  show exec i (s.lineUp first b0 (b1 ^^^ 0x01#8) rest) =
    mapNext (s.flipRecord first b0 b1 rest) (exec i (s.lineUp first b0 b1 rest))
  obtain ⟨e, h⟩ | ⟨f, h⟩ | ⟨p, h⟩ := exec_conversion_cases hi s
  · rw [State.lineUp, State.lineUp, h, h, mapNext_next]
    exact congrArg _ (State.flipRecord_finished s first b0 b1 rest 0 [] e .none).symm
  · rw [State.lineUp, State.lineUp, h, h]; rfl
  · rw [State.lineUp, State.lineUp, h, h]
    exact rawCodeRead_flip p s first b0 b1 rest

end Sys2Proof.Machine
end

section
/-! PROOFS. Statements of spec/60_exceptions.md: what an error leaves unchanged (R201), and the answer to a word outside the opcode
map (R197). -/

namespace Sys2Proof.Machine

/-! ### An instruction that reports an error -/

/-- The one new response of a finished command is the one it finished with (R95). -/
theorem State.response_of_finished {s : State} {calls : Nat} {ev : List BusEvent} {st : Status} {p : Payload} {r : Response}
    (h : (s.finished calls ev st p).responses = s.responses ++ [r]) : r = ⟨st, p⟩ :=
  (List.singleton_inj.mp (List.append_cancel_left h)).symm

/-- Whatever check or serial call an error comes from, the command finished with its status and no payload, and nothing written to
the Device Handle (R201): among the shapes of `exec_shape` the two that write the handle answer `OK`, and the two that leave the
line low give no response. -/
theorem exec_error_finished {i : Instr} {s t : State} {r : Response} (h : exec i s = .next t)
    (hr : t.responses = s.responses ++ [r]) (he : r.status ≠ .ok) :
    ∃ calls ev, t = s.finished calls ev r.status .none ∧ r.payload = .none := by
  cases exec_shape h with
  | rejected | txFailed | rxFailed =>
    obtain rfl := State.response_of_finished hr
    exact ⟨_, _, rfl, rfl⟩
  | wrote | read =>
    obtain rfl := State.response_of_finished hr
    exact absurd rfl he
  | deinit =>
    obtain rfl := State.response_of_finished (s := s.unconfigure) hr
    exact absurd rfl he
  | configured mode ur un m R N =>
    obtain rfl := State.response_of_finished (s := s.configure m R N) hr
    exact absurd rfl he
  | txHangs | rxHangs => exact absurd (List.self_eq_append_right.mp hr) (List.cons_ne_nil _ _)

/-- Settles O43: a state that `finished` has the handle, the line and the phase of the state the command started in. -/
theorem errorsChangeNothing : Obligations.ErrorsChangeNothing := by
  intro i s t r hcs hph h hr he
  obtain ⟨calls, ev, rfl, hp⟩ := exec_error_finished h hr he
  exact ⟨rfl, rfl, rfl, rfl, hcs, hph, hp⟩

/-! ### A word outside the opcode map -/

/-- An idle block whose next event is a command word takes the event, with the side operands on the port (R27, R88). -/
theorem fetch_command {s : State} {w : CommandWord} {r n : Option Rat} {rest : List HostEvent} (hp : s.phase = .idle)
    (hbox : s.inbox = .command w r n :: rest) : fetch s = fetchCommand w (s.acceptCommand rest r n) := by
  rw [fetch, if_pos hp, fetchIdle, hbox]

/-- A word that does not decode is accepted as an illegal one, whichever of its fields is at fault (R93). -/
theorem fetchCommand_of_error {w : CommandWord} {e : IllegalCode} (hw : decodeWord w = .error e) (s : State) :
    fetchCommand w s = .illegal s := by
  rw [fetchCommand, hw]

/-- The step that accepts an illegal word takes the error `E_ILLEGAL` (R197). -/
theorem step_of_illegal {s u : State} (h : fetch s = .illegal u) : step s = .next (u.raise .eIllegal) := by
  rw [step, h]

/-- Settles O15: the word is taken, found illegal and answered; the next state is that of `raise` on the accepted command. -/
theorem illegalWordAnswered : Obligations.IllegalWordAnswered :=
  fun _ _ _ _ _ _ hp hbox hw => step_of_illegal ((fetch_command hp hbox).trans (fetchCommand_of_error hw _))

end Sys2Proof.Machine
end

section
/-! PROOFS. The statements of spec/70_reset_and_hazards.md: the reset state (R230, R231), the reset of an idle block (R233), and when a
command ends (R247). -/

namespace Sys2Proof.Machine

/-! ### Reset -/

/-- Settles O1: each element of `State.reset` is the value R231 lists. -/
theorem resetState : Obligations.ResetState := ⟨rfl, rfl, rfl, rfl, rfl, rfl, rfl⟩

/-- Settles O2: `blockReset` gives each element of R33 a constant, which is the one `State.reset` holds. -/
theorem resetGivesOneState : Obligations.ResetGivesOneState := fun s =>
  ⟨s.blockReset_cs, s.blockReset_phase, s.blockReset_dstate, s.blockReset_wmode, s.blockReset_rref, s.blockReset_rnom⟩

/-- An idle block whose next event is a reset takes it in its turn. -/
theorem fetch_reset {s : State} {rest : List HostEvent} (hp : s.phase = .idle) (hbox : s.inbox = .reset :: rest) :
    fetch s = .reset { s with inbox := rest } := by
  rw [fetch, if_pos hp, fetchIdle, hbox]

/-- The step that takes a reset is the block's reset (R230). -/
theorem step_of_reset {s u : State} (h : fetch s = .reset u) : step s = .next u.blockReset := by
  rw [step, h]

/-- Settles O4: the reset is taken, and `blockReset` of a state in phase IDLE adds nothing to the bus trace. -/
theorem resetOfIdleBlock : Obligations.ResetOfIdleBlock := fun _ _ hp hbox =>
  ⟨_, step_of_reset (fetch_reset hp hbox), rfl, rfl, rfl, rfl, rfl, rfl, if_pos hp, rfl, rfl⟩

/-! ### When a command ends -/

/-- No call hung between two states exactly when each call made between them returned. -/
theorem not_callHung_iff {s t : State} : ¬CallHung s t ↔ ∀ k, s.draws + k < t.draws → s.answerAt k ≠ .hang := by
  simp [CallHung]

/-- Where `n` calls were made and the first `n` answers are returns, none hung. -/
theorem not_callHung_of_calls {s t : State} {n : Nat} (hd : t.draws = s.draws + n) (h : ∀ k < n, s.answerAt k ≠ .hang) :
    ¬CallHung s t :=
  not_callHung_iff.mpr fun k hk => h k (Nat.lt_of_add_lt_add_left (hd ▸ hk))

/-- Where no call was made, none hung. -/
theorem not_callHung_of_no_call {s t : State} (hd : t.draws = s.draws) : ¬CallHung s t :=
  not_callHung_of_calls (n := 0) hd nofun

/-- Where one call was made and it returned, none hung. -/
theorem not_callHung_of_one_call {s t : State} (hd : t.draws = s.draws + 1) (ha : s.answerAt 0 ≠ .hang) : ¬CallHung s t :=
  not_callHung_of_calls hd fun _ hk => Nat.lt_one_iff.mp hk ▸ ha

/-- Where two calls were made and both returned, none hung. -/
theorem not_callHung_of_two_calls {s t : State} (hd : t.draws = s.draws + 2) (ha : s.answerAt 0 ≠ .hang)
    (ha' : s.answerAt 1 ≠ .hang) : ¬CallHung s t :=
  not_callHung_of_calls hd fun
    | 0, _ => ha
    | 1, _ => ha'

/-- Either every call of a command returned and `PHASE` is as at its start, or one hung and the line is left low inside the
transaction (R123): among the shapes of `exec_shape` the two stuck ones are the hung ones, and each of the others names the return
of every call it made. -/
theorem exec_end_cases {i : Instr} {s t : State} (h : exec i s = .next t) :
    (¬CallHung s t ∧ t.phase = s.phase) ∨ (CallHung s t ∧ t.phase ≠ .idle ∧ t.cs = .low) := by
  cases exec_shape h with
  | rejected | deinit => exact .inl ⟨not_callHung_of_no_call rfl, rfl⟩
  | configured _ _ _ _ _ _ _ _ _ _ _ _ ha | wrote _ _ _ _ _ _ ha | txFailed _ _ _ ha =>
    exact .inl ⟨not_callHung_of_one_call rfl (ha.trans_ne nofun), rfl⟩
  | read _ _ _ _ _ _ _ _ ha ha' | rxFailed _ _ _ _ _ _ _ ha ha' =>
    exact .inl ⟨not_callHung_of_two_calls rfl (ha.trans_ne nofun) (ha'.trans_ne nofun), rfl⟩
  | txHangs hb ha => exact .inr ⟨callHung_stuckIn Nat.zero_lt_one ha _ _, nofun, rfl⟩
  | rxHangs addr n bs hr hn hb ha ha' => exact .inr ⟨callHung_stuckIn Nat.one_lt_two ha' _ _, nofun, rfl⟩

/-- Settles O49: in the first case of `exec_end_cases` both sides of the equivalence hold, in the second both fail and the line is
low. -/
theorem commandEndsIffCallsReturn : Obligations.CommandEndsIffCallsReturn := by
  intro i s t _ hp h
  rw [← not_callHung_iff]
  obtain ⟨hret, hph⟩ | ⟨hhung, hph, hcs⟩ := exec_end_cases h
  · have hidle : t.phase = .idle := hph.trans hp
    exact ⟨iff_of_true hidle hret, absurd hidle⟩
  · exact ⟨iff_of_false hph (not_not_intro hhung), fun _ => hcs⟩

end Sys2Proof.Machine
end

section
/-! PROOFS. The encoding in both directions (spec/30_encoding.md), what a step takes and runs, what every instruction leaves
unchanged and never reads (spec/10_state.md, spec/40_transport.md, spec/60_exceptions.md), the invariant of the machine, and the
derived facts of the conversion's arithmetic (spec/42_conversion.md R172, R177). -/

namespace Sys2Proof

/-! ### Decode of encode -/

/-- The header of a write frame has bit 7 set (R81). -/
@[simp] theorem getElem_seven_writeFlag (a : BitVec 7) : (1#1 ++ a : Byte)[7] = true := by
  revert a; decide

/-- The header of a read frame has bit 7 clear (R82). -/
@[simp] theorem getElem_seven_readFlag (a : BitVec 7) : (0#1 ++ a : Byte)[7] = false := by
  revert a; decide

/-- The address bits are read back from a header, whatever its flag (R83). -/
@[simp] theorem extractLsb'_header (flag : BitVec 1) (a : BitVec 7) : (flag ++ a : Byte).extractLsb' 0 7 = a := by
  revert flag a; decide

theorem decodeFrame_wframe (a : BitVec 7) (d : Byte) : decodeFrame [1#1 ++ a, d] = .ok (.wframe a d) := by
  simp [decodeFrame]

theorem decodeFrame_rframe (a : BitVec 7) : decodeFrame [0#1 ++ a] = .ok (.rframe a) := by
  simp [decodeFrame]

/-- Settles O8: row by row; the one operand that is wider than its field is the length of `XRD`, which `wellFormed` bounds. -/
theorem decodeOfEncode : Obligations.DecodeOfEncode := by
  intro i hi
  cases i with
  | xwr addr value => exact decodeWord_xwr addr value
  | xrd addr length =>
    have hle : length ≤ 255 := of_decide_eq_true hi
    have hlen : (BitVec.ofNat 8 length).toNat = length := Nat.mod_eq_of_lt (by omega)
    have hword := decodeWord_xrd addr (BitVec.ofNat 8 length)
    rwa [hlen] at hword
  | init mode ur un => exact decodeWord_init mode ur un
  | rdraw => exact decodeWord_rdraw
  | rdres ur => exact decodeWord_rdres ur
  | rdtmp ur un => exact decodeWord_rdtmp ur un
  | deinit => exact decodeWord_deinit
  | wframe a d => exact decodeFrame_wframe a d
  | rframe a => exact decodeFrame_rframe a

/-- Settles O11: each word is its row of R89, R81 or R82 at literal operands. -/
theorem decodeSampleWords : Obligations.DecodeSampleWords :=
  ⟨decodeWord_xwr 0x00#8 0xD2#8, decodeWord_xrd 0x7F#8 0xFF#8, decodeWord_init 0b10#2 true false, decodeWord_rdtmp false true,
    decodeWord_deinit, decodeFrame_wframe 0x03#7 0x7F#8, decodeFrame_rframe 0x01#7⟩

/-! ### Encode of decode -/

/-- A byte with its reserved bits 7..2 clear is the byte of its mode field (R89, R91). -/
theorem modeByte_of_reserved {b : Byte} (h : b &&& 0xFC#8 = 0#8) : modeByte (b.extractLsb' 0 2) = b := by
  revert b; decide

/-- A byte with its reserved bits 7..2 clear is the byte of its two flags (R89, R92). -/
theorem flagByte_of_reserved {b : Byte} (h : b &&& 0xFC#8 = 0#8) : flagByte (b.getLsbD 0) (b.getLsbD 1) = b := by
  revert b; decide

/-- A byte with its reserved bits 7..1 clear is the byte of the one flag `UR` (R89, R92). -/
theorem flagByte_ur_of_reserved {b : Byte} (h : b &&& 0xFE#8 = 0#8) : flagByte (b.getLsbD 0) false = b := by
  revert b; decide

/-- A word that matches a row is the word of the row's operation and its own operand bytes, whose reserved bits are clear (R88,
R89). -/
theorem MatchesRow.eq_commandWord {w : CommandWord} {op ma mb : Byte} (h : MatchesRow w op ma mb) :
    commandWord op (aField w) (bField w) 0#8 = w ∧ aField w &&& ma = 0#8 ∧ bField w &&& mb = 0#8 := by
  obtain ⟨hop, ha, hb, hc⟩ := matchesRow_iff.mp h
  exact ⟨by rw [← hop, ← hc, commandWord_fields], ha, hb⟩

/-- What a command word decodes to is well formed and has that word (R89, R90). -/
theorem encode_of_decodeWord {w : CommandWord} {i : Instr} (h : decodeWord w = .ok i) :
    i.wellFormed = true ∧ encode i = .command w := by
  obtain ⟨hrow, rfl⟩ | ⟨hrow, rfl⟩ | ⟨hrow, rfl⟩ | ⟨hrow, rfl⟩ | ⟨hrow, rfl⟩ | ⟨hrow, rfl⟩ | ⟨hrow, rfl⟩ :=
    decodeWord_eq_ok_iff.mp h
  all_goals obtain ⟨hw, ha, hb⟩ := hrow.eq_commandWord
  · exact ⟨rfl, congrArg _ hw⟩
  · have hlt := (bField w).isLt
    exact ⟨decide_eq_true (Nat.le_of_lt_succ hlt), by rw [encode, BitVec.ofNat_toNat, BitVec.setWidth_eq, hw]⟩
  · exact ⟨rfl, by rw [encode, modeField_eq, urBit_eq, unBit_eq, modeByte_of_reserved ha, flagByte_of_reserved hb, hw]⟩
  · rw [byte_and_ones] at ha hb
    rw [ha, hb] at hw
    exact ⟨rfl, congrArg _ hw⟩
  · rw [byte_and_ones] at ha
    rw [ha] at hw
    exact ⟨rfl, by rw [encode, urBit_eq, flagByte_ur_of_reserved hb, hw]⟩
  · rw [byte_and_ones] at ha
    rw [ha] at hw
    exact ⟨rfl, by rw [encode, urBit_eq, unBit_eq, flagByte_of_reserved hb, hw]⟩
  · rw [byte_and_ones] at ha hb
    rw [ha, hb] at hw
    exact ⟨rfl, congrArg _ hw⟩

/-- A byte is its flag and its address bits (R80). -/
theorem header_of_flag {h : Byte} {flag : BitVec 1} (hf : BitVec.ofBool (h.getLsbD 7) = flag) :
    (flag ++ h.extractLsb' 0 7 : Byte) = h := by
  subst hf; revert h; decide

/-- What the decoder accepts as a frame: a write header with one data byte, or a read header alone (R81, R82). -/
theorem decodeFrame_eq_ok {sent : List Byte} {i : Instr} (h : decodeFrame sent = .ok i) :
    (∃ hd d, sent = [hd, d] ∧ hd.getLsbD 7 = true ∧ i = .wframe (hd.extractLsb' 0 7) d) ∨
      (∃ hd, sent = [hd] ∧ hd.getLsbD 7 = false ∧ i = .rframe (hd.extractLsb' 0 7)) := by
  unfold decodeFrame at h
  split at h
  next hd d =>
    split at h
    next h7 => cases h; exact .inl ⟨hd, d, rfl, h7, rfl⟩
    next => cases h
  next hd =>
    split at h
    next => cases h
    next h7 => cases h; exact .inr ⟨hd, rfl, Bool.eq_false_of_not_eq_true h7, rfl⟩
  next => cases h
  next => cases h

/-- What a frame decodes to is well formed and has those bytes (R81, R82). -/
theorem encode_of_decodeFrame {sent : List Byte} {i : Instr} (h : decodeFrame sent = .ok i) :
    i.wellFormed = true ∧ encode i = .frame sent := by
  obtain ⟨hd, d, rfl, h7, rfl⟩ | ⟨hd, rfl, h7, rfl⟩ := decodeFrame_eq_ok h
  · exact ⟨rfl, by rw [encode, header_of_flag (by rw [h7]; rfl)]⟩
  · exact ⟨rfl, by rw [encode, header_of_flag (by rw [h7]; rfl)]⟩

/-- Settles O9: a command word by the row it matches, a frame by its length and its flag. -/
theorem encodeOfDecode : Obligations.EncodeOfDecode := by
  intro c i h
  cases c with
  | command w => exact encode_of_decodeWord h
  | frame sent => exact encode_of_decodeFrame h

/-- A row of the opcode table decodes exactly as its code does. -/
theorem decode_of_decodeTableWord {nbits w : Nat} {i : Instr} (h : decodeTableWord nbits w = some i) :
    decode (codeOfTableWord nbits w) = .ok i := by
  unfold decodeTableWord at h
  split at h
  next hi => cases h; exact hi
  next => cases h

end Sys2Proof

namespace Sys2Proof.Machine

/-! ### The ranges and the realisations of the conversion -/

theorem temperature_strictMono {N : Rat} (hN : 0 < N) : StrictMono fun rho => temperature rho N := by
  intro rho rho' h
  have hdiv : rho / N < rho' / N := div_lt_div_of_pos_right h hN
  exact div_lt_div_of_pos_right (sub_lt_sub_right hdiv 1) (by norm_num)

/-- At resistance 0 the linear formula gives its least value (R177). -/
theorem temperature_zero (N : Rat) : temperature 0 N = -20000 / 77 := by
  norm_num [temperature]

/-- A resistance that is not negative has a temperature of at least that of 0 (R177). -/
theorem le_temperature {rho N : Rat} (hN : 0 < N) (hrho : 0 ≤ rho) : -20000 / 77 ≤ temperature rho N :=
  temperature_zero N ▸ (temperature_strictMono hN).monotone hrho

/-- The greatest raw code gives the greatest resistance (R177). -/
theorem resistance_430_le {r : Nat} (hr : r ≤ 32767) : resistance r 430 ≤ 7044905 / 16384 := by
  have hr' : (r : Rat) ≤ 32767 := by exact_mod_cast hr
  unfold resistance
  linarith

/-- Settles O37: the temperature is strictly monotone in the resistance, so its bounds are the temperatures of the resistance's
bounds. -/
theorem conversionRanges : Obligations.ConversionRanges := by
  refine ⟨fun r hr => ?_, fun r R N hr hR hN => ?_⟩
  · have h0 : 0 ≤ resistance r 430 := resistance_nonneg r (by norm_num)
    have hmax : temperature (7044905 / 16384) 100 = 135162625 / 157696 := by norm_num [temperature]
    exact ⟨h0, resistance_430_le hr, le_temperature (by norm_num) h0,
      hmax ▸ (temperature_strictMono (by norm_num)).monotone (resistance_430_le hr)⟩
  · have h0 : 0 ≤ resistance r R := resistance_nonneg r hR
    have hmax : temperature R N = (R / N - 1) * 20000 / 77 := by rw [temperature, div_div_eq_mul_div]
    exact ⟨h0, resistance_lt hr hR, le_temperature hN h0, hmax ▸ temperature_strictMono hN (resistance_lt hr hR)⟩

/-- The integer product, read with 15 more fraction bits, is the resistance exactly (R172). -/
theorem fixedValue_resistanceFixed (r : Nat) (R : FixedPoint) :
    fixedValue (resistanceFixed r R) = resistance r (fixedValue R) := by
  have h15 : (2 : Rat) ^ 15 = 32768 := by norm_num
  simp only [fixedValue, resistanceFixed, resistance]
  rw [pow_add, h15, Nat.cast_mul, ← mul_div_assoc, div_div]

/-- Settles O38: mantissa and fraction by definition, the value by `fixedValue_resistanceFixed`. -/
theorem fixedPointResistance : Obligations.FixedPointResistance :=
  fun r R => ⟨rfl, rfl, fixedValue_resistanceFixed r R⟩

/-- The exact value conforms to itself (R171). -/
theorem conforms_refl (x : Rat) : Conforms x x := by
  simp only [Conforms, sub_self, abs_zero]; positivity

/-- Whatever the rounding, the temperature stage meets the tolerance: where the rounding does not, the exact value stands (R172,
log 12). -/
theorem temperatureRounded_conforms (round : Rat → Rat → Rat) (rho N : Rat) :
    Conforms (temperature rho N) (temperatureRounded round rho N) := by
  unfold temperatureRounded
  split
  next h => exact h
  next => exact conforms_refl _

/-- Settles O39: the bound of `temperatureRounded_conforms`; the fixed-point resistance is exact, and only 0 conforms to 0. -/
theorem realisedTemperature : Obligations.RealisedTemperature := by
  intro rho N hN
  refine ⟨temperatureRounded_conforms _ rho N, fun r R => ?_, fun h => ?_, fun round h => ?_⟩
  · rw [fixedValue_resistanceFixed]; exact temperatureRounded_conforms _ _ N
  · have hconf := temperatureRounded_conforms Config.tempRound rho N
    rw [(temperature_eq_zero_iff hN).mpr h] at hconf
    exact conforms_zero_iff.mp hconf
  · rw [← temperature_eq_div rho hN] at h
    exact if_pos h

/-! ### What a step takes -/

/-- The step that accepts an instruction runs it. -/
theorem step_of_run {s u : State} {i : Instr} (h : fetch s = .run i u) : step s = exec i u := by
  rw [step, h]

/-- A word that decodes is accepted as its instruction (R97). -/
theorem fetchCommand_of_ok {w : CommandWord} {i : Instr} (hw : decodeWord w = .ok i) (s : State) :
    fetchCommand w s = .run i s := by
  rw [fetchCommand, hw]

/-- An idle block whose next event is a bare frame takes the event, with its length on the port (log 5). -/
theorem fetch_bareFrame {s : State} {sent : List Byte} {len : Nat} {rest : List HostEvent} (hp : s.phase = .idle)
    (hbox : s.inbox = .frame sent len :: rest) : fetch s = fetchFrame sent (s.acceptFrame rest len) := by
  rw [fetch, if_pos hp, fetchIdle, hbox]

/-- A frame that decodes is accepted as its instruction (log 5). -/
theorem fetchFrame_of_ok {sent : List Byte} {i : Instr} (hf : decodeFrame sent = .ok i) (s : State) :
    fetchFrame sent s = .run i s := by
  rw [fetchFrame, hf]

/-- With no event there is nothing to take, in an idle block as in a busy one (R234). -/
theorem fetch_nil {s : State} (hbox : s.inbox = []) : fetch s = .wait := by
  by_cases hp : s.phase = .idle
  · rw [fetch, if_pos hp, fetchIdle, hbox]
  · exact fetch_eq_wait_of_busy hp (by simp [hbox])

/-- Inside a transaction a reset among the host's events is taken at once (R232, log 8). -/
theorem fetch_reset_of_busy {s : State} (hp : s.phase ≠ .idle) (hr : .reset ∈ s.inbox) :
    fetch s = .reset { s with inbox := s.inbox.erase .reset } := by
  rw [fetch, if_neg hp, fetchBusy, if_pos hr]

/-- Settles O16: a block with no event to take waits. -/
theorem idleBlockWaits : Obligations.IdleBlockWaits := fun _ hbox => step_eq_self_of_wait (fetch_nil hbox)

/-- Settles O3: the reset is taken before the commands that wait, and `blockReset` inside a transaction shows the release of
chip-select. -/
theorem resetInsideTransaction : Obligations.ResetInsideTransaction := fun _ hp hr =>
  ⟨_, step_of_reset (fetch_reset_of_busy hp hr), rfl, rfl, rfl, rfl, rfl, rfl, if_neg hp, rfl, rfl⟩

/-- Settles O12: the word is taken, decoded and run. -/
theorem stepRunsDecodedCommand : Obligations.StepRunsDecodedCommand :=
  fun _ _ _ _ _ _ hp hbox hw => step_of_run ((fetch_command hp hbox).trans (fetchCommand_of_ok hw _))

/-- Settles O13: the frame is taken, decoded and run. -/
theorem stepRunsDecodedFrame : Obligations.StepRunsDecodedFrame :=
  fun _ _ _ _ _ hp hbox hf => step_of_run ((fetch_bareFrame hp hbox).trans (fetchFrame_of_ok hf _))

/-- Settles O14: `withFetchWord` places the code of the table word as the first event, with the operands already on the port, so
the two statements before give its step. -/
theorem placedWordRuns : Obligations.PlacedWordRuns := by
  intro s nbits w i hp hi
  have hcode := decode_of_decodeTableWord hi
  refine ⟨fun v hv => ?_, fun sent hsent => ?_⟩
  · have hbox : (s.withFetchWord nbits w).inbox = .command v s.argR s.argN :: s.inbox := by
      rw [State.withFetchWord, hv]; rfl
    rw [hv] at hcode
    exact stepRunsDecodedCommand (s.withFetchWord nbits w) v s.argR s.argN s.inbox i hp hbox hcode
  · have hbox : (s.withFetchWord nbits w).inbox = .frame sent (max 1 s.argLen) :: s.inbox := by
      rw [State.withFetchWord, hsent]; rfl
    rw [hsent] at hcode
    exact stepRunsDecodedFrame (s.withFetchWord nbits w) sent (max 1 s.argLen) s.inbox i hp hbox hcode

/-! ### The bare frames -/

/-- A write header is its flag and the 7 address bits (R81, R83). -/
theorem frameAddr_or (a : BitVec 7) : frameAddr a ||| 0x80#8 = 1#1 ++ a := by
  revert a; decide

/-- A read header is its flag and the 7 address bits (R82, R83). -/
theorem frameAddr_and (a : BitVec 7) : frameAddr a &&& 0x7F#8 = 0#1 ++ a := by
  revert a; decide

/-- Settles O20: the write frame is `XWR` of its address bits. -/
theorem wframeIsWriteTransaction : Obligations.WframeIsWriteTransaction := by
  intro s a d hcs hph
  obtain ⟨hok, hfail, -, -⟩ := xwrWritesOneRegister s (frameAddr a) d hcs hph
  rw [frameAddr_or] at hok hfail
  exact ⟨hok, hfail⟩

/-- Settles O21: the read frame is `XRD` of its address bits and the length on the port. -/
theorem rframeIsReadTransaction : Obligations.RframeIsReadTransaction := by
  intro s a
  obtain ⟨hlength, hread, -, -⟩ := xrdReadsRegisters s (frameAddr a) s.argLen
  rw [frameAddr_and] at hread
  exact ⟨hlength, hread⟩

/-! ### Refusals, faults and hangs -/

/-- Settles O22: an instruction that passes its checks is a transaction, which is refused; any other answers or faults with no
bus event. -/
theorem transactionNeedsIdleLine : Obligations.TransactionNeedsIdleLine := by
  intro s hline i
  have hi : s.busIdle = false := Bool.eq_false_of_not_eq_true (mt State.busIdle_iff.mp hline)
  cases hs : startsTransaction i s with
  | true =>
    have hrefused : exec i s = .refused .transactionNotIdle := by
      obtain ⟨addr, value, commit, -, hexec⟩ | ⟨addr, n, payload, hn, -, hexec⟩ := exec_of_starts hs
      · rw [hexec, writeCommand_refuses hi]
      · rw [hexec, readCommand_refuses hn hi]
    exact ⟨iff_of_true hrefused rfl, fun t ht => by rw [hrefused] at ht; cases ht⟩
  | false =>
    obtain ⟨e, hexec⟩ | ⟨f, hexec⟩ | rfl := exec_of_not_starts hs
    · rw [hexec]
      exact ⟨iff_of_false nofun nofun, fun t ht => by cases ht; exact ⟨List.append_nil _, rfl⟩⟩
    · rw [hexec]
      exact ⟨iff_of_false nofun nofun, fun t ht => by cases ht⟩
    · exact ⟨iff_of_false nofun nofun, fun t ht => by cases ht; exact ⟨rfl, rfl⟩⟩

/-- Settles O32: with no flag set no override is bad, and the element of the handle that is selected is not positive. -/
theorem missingHandleValueFaults : Obligations.MissingHandleValueFaults := by
  refine fun s hd => ⟨fun hR => ?_, fun hN => ?_⟩
  · have hR' : positive (selected false s.argR s.rref) = none := positive_eq_none_of_invalid hR
    exact ⟨execRdres_fault hd rfl hR', execRdtmp_fault hd rfl rfl (.inl hR')⟩
  · exact execRdtmp_fault hd rfl rfl (.inr (positive_eq_none_of_invalid hN))

/-- Settles O50: past its checks an instruction is one write, which has only the transmit, or one read with the header that
`readHeaderOf` names. -/
theorem serialHangLeavesLineLow : Obligations.SerialHangLeavesLineLow := by
  intro i s hcs hph hs
  have hi : s.busIdle = true := State.busIdle_iff.mpr ⟨hcs, hph⟩
  obtain ⟨addr, value, commit, hnone, hexec⟩ | ⟨addr, n, payload, hn, hheader, hexec⟩ := exec_of_starts hs
  · refine ⟨fun ha => hexec.trans (writeCommand_hang hi ha), fun _ header hsome => ?_⟩
    rw [hnone] at hsome; cases hsome
  · refine ⟨fun ha => hexec.trans (readCommand_txHang hn hi ha), fun bs header hsome ha ha' => ?_⟩
    obtain rfl : addr &&& 0x7F#8 = header := Option.some.inj (hheader.symm.trans hsome)
    exact hexec.trans (readCommand_rxHang hn hi ha ha')

/-! ### What an instruction changes and what it leaves -/

/-- The operands on the port and the host's coming events are the host's to change (R88, log 1). -/
theorem exec_keeps_inputs {i : Instr} {s t : State} (h : exec i s = .next t) :
    t.argR = s.argR ∧ t.argN = s.argN ∧ t.argLen = s.argLen ∧ t.inbox = s.inbox := by
  cases exec_shape h with
  | _ => exact ⟨rfl, rfl, rfl, rfl⟩

/-- Only a successful `INIT` and `DEINIT` change the Device Handle (R145, R149, R150): each other shape of `exec_shape` leaves all
four elements. -/
theorem exec_handle_cases {i : Instr} {s t : State} (h : exec i s = .next t) :
    (t.dstate = s.dstate ∧ t.wmode = s.wmode ∧ t.rref = s.rref ∧ t.rnom = s.rnom) ∨
      ((∃ mode ur un, i = .init mode ur un) ∧ s.dstate = .unconfigured ∧ t.dstate = .configured ∧
        t.responses = s.responses ++ [⟨.ok, .none⟩]) ∨
      (i = .deinit ∧ t.dstate = .unconfigured ∧ t.responses = s.responses ++ [⟨.ok, .none⟩]) := by
  cases exec_shape h with
  | deinit hi => exact .inr (.inr ⟨hi, rfl, rfl⟩)
  | configured mode ur un m R N bs hi hd => exact .inr (.inl ⟨⟨mode, ur, un, hi⟩, hd, rfl, rfl⟩)
  | rejected | wrote | read | txFailed | rxFailed | txHangs | rxHangs => exact .inl ⟨rfl, rfl, rfl, rfl⟩

/-- The line and `PHASE` end as they began, or a serial call hung and the command gave no response (R123, log 13). -/
theorem exec_line_cases {i : Instr} {s t : State} (h : exec i s = .next t) :
    (t.cs = s.cs ∧ t.phase = s.phase) ∨ (CallHung s t ∧ t.cs = .low ∧ t.phase ≠ .idle ∧ t.responses = s.responses) := by
  cases exec_shape h with
  | rejected | deinit | configured | wrote | read | txFailed | rxFailed => exact .inl ⟨rfl, rfl⟩
  | txHangs hb ha => exact .inr ⟨callHung_stuckIn Nat.zero_lt_one ha _ _, rfl, nofun, rfl⟩
  | rxHangs addr n bs hr hn hb ha ha' => exact .inr ⟨callHung_stuckIn Nat.one_lt_two ha' _ _, rfl, nofun, rfl⟩

/-- From `s` to `t` the record only grew: events at the end of the bus trace, at most one response (R60). -/
def OnlyAppends (s t : State) : Prop :=
  s.trace <+: t.trace ∧ (t.responses = s.responses ∨ ∃ r, t.responses = s.responses ++ [r])

/-- A grown record begins with the old responses. -/
theorem OnlyAppends.responses {s t : State} (h : OnlyAppends s t) : s.responses <+: t.responses := by
  obtain ⟨-, hsame | ⟨r, hr⟩⟩ := h
  · exact hsame ▸ List.prefix_rfl
  · exact ⟨[r], hr.symm⟩

theorem exec_onlyAppends {i : Instr} {s t : State} (h : exec i s = .next t) : OnlyAppends s t := by
  cases exec_shape h with
  | rejected | deinit | configured | wrote | read | txFailed | rxFailed => exact ⟨⟨_, rfl⟩, .inr ⟨_, rfl⟩⟩
  | txHangs | rxHangs => exact ⟨⟨_, rfl⟩, .inl rfl⟩

/-- Settles O44: of the shapes of `exec_shape` only the rejection answers an error other than `E_BUS`. -/
theorem rejectionsLeaveBusAlone : Obligations.RejectionsLeaveBusAlone := by
  intro i s t r h hr hok hbus
  cases exec_shape h with
  | rejected =>
    obtain rfl := State.response_of_finished hr
    exact (State.raise_eq_finished s _).symm
  | txFailed | rxFailed =>
    obtain rfl := State.response_of_finished hr
    exact absurd rfl hbus
  | wrote | read =>
    obtain rfl := State.response_of_finished hr
    exact absurd rfl hok
  | deinit =>
    obtain rfl := State.response_of_finished (s := s.unconfigure) hr
    exact absurd rfl hok
  | configured mode ur un m R N =>
    obtain rfl := State.response_of_finished (s := s.configure m R N) hr
    exact absurd rfl hok
  | txHangs | rxHangs => exact absurd (List.self_eq_append_right.mp hr) (List.cons_ne_nil _ _)

/-- Settles O45: the three cases of `exec_handle_cases`, where `DEINIT` on an unconfigured block keeps `DSTATE`. -/
theorem handleLifecycle : Obligations.HandleLifecycle := by
  intro i s t h
  refine ⟨?_, fun hi => by subst hi; cases h; rfl⟩
  obtain ⟨hd, -⟩ | ⟨hi, hs, ht, hr⟩ | ⟨hi, ht, hr⟩ := exec_handle_cases h
  · exact .inl hd
  · exact .inr (.inl ⟨hs, ht, hi, hr⟩)
  · cases hs : s.dstate with
    | unconfigured => exact .inl ht
    | configured => exact .inr (.inr ⟨rfl, ht, hi, hr⟩)

/-- Settles O47: the second and third case of `exec_handle_cases` are not among these instructions. -/
theorem handleFrame : Obligations.HandleFrame := by
  intro i s t hl h
  obtain ⟨hr, hn, hlen, hbox⟩ := exec_keeps_inputs h
  have happ := exec_onlyAppends h
  obtain ⟨hd, hm, hR, hN⟩ | ⟨⟨mode, ur, un, rfl⟩, -⟩ | ⟨rfl, -⟩ := exec_handle_cases h
  · exact ⟨hd, hm, hR, hN, hr, hn, hlen, hbox, happ.1, happ.responses, exec_line_cases h⟩
  · cases hl
  · cases hl

/-- Settles O48: of the cases of `exec_handle_cases` the first keeps the handle and the second answered `OK`. -/
theorem initFrame : Obligations.InitFrame := by
  intro mode ur un s t h
  obtain ⟨hr, hn, hlen, hbox⟩ := exec_keeps_inputs h
  have happ := exec_onlyAppends h
  refine ⟨hr, hn, hlen, hbox, happ.1, happ.responses, ?_, exec_line_cases h⟩
  obtain hkept | ⟨-, -, -, hok⟩ | ⟨-, -, hok⟩ := exec_handle_cases h
  · exact .inr hkept
  · exact .inl hok
  · exact .inl hok

/-- `s` with other inputs: what taking an event may change (R88, logs 1, 6). -/
def State.withInputs (s : State) (box : List HostEvent) (r n : Option Rat) (len : Nat) : State :=
  { s with inbox := box, argR := r, argN := n, argLen := len }

/-- Taking an event changes the inputs alone. -/
theorem fetch_withInputs {s u : State} (h : fetch s = .reset u ∨ (∃ i, fetch s = .run i u) ∨ fetch s = .illegal u) :
    ∃ box r n len, u = s.withInputs box r n len :=
  ⟨_, _, _, _, (fetch_frame h).1⟩

theorem blockReset_onlyAppends (s : State) : OnlyAppends s s.blockReset := by
  refine ⟨?_, .inl rfl⟩
  rw [State.blockReset_trace]
  split
  · exact List.prefix_rfl
  · exact ⟨_, rfl⟩

/-- Settles O53: the inputs a step takes are no part of the record, and each of the four things it can do only appends. -/
theorem stepOnlyAppends : Obligations.StepOnlyAppends := by
  intro s t h
  obtain ⟨-, rfl⟩ | ⟨u, hf, rfl⟩ | ⟨i, u, hf, hx⟩ | ⟨u, hf, rfl⟩ := step_cases h
  · exact ⟨List.prefix_rfl, .inl rfl⟩
  · obtain ⟨box, r, n, len, rfl⟩ := fetch_withInputs (.inl hf)
    exact blockReset_onlyAppends (s.withInputs box r n len)
  · obtain ⟨box, r, n, len, rfl⟩ := fetch_withInputs (.inr (.inl ⟨i, hf⟩))
    exact exec_onlyAppends (s := s.withInputs box r n len) hx
  · obtain ⟨box, r, n, len, rfl⟩ := fetch_withInputs (.inr (.inr hf))
    exact ⟨List.prefix_rfl, .inr ⟨_, rfl⟩⟩

/-! ### What a command does not read -/

@[simp] theorem mapNext_fault (f : State → State) (r : Fault) : mapNext f (.fault r) = .fault r := rfl

/-- The checks of a command with the flags `ur` and `un` find in `s'` what they find in `s`: the handle, the length on the port, and
the side operands that are selected. -/
structure SameChecks (ur un : Bool) (s s' : State) : Prop where
  dstate : s'.dstate = s.dstate
  rref : s'.rref = s.rref
  rnom : s'.rnom = s.rnom
  argLen : s'.argLen = s.argLen
  argR : ur = true → s'.argR = s.argR
  argN : un = true → s'.argN = s.argN

/-- A selection sees the side operand only where the flag is 1 (R92). -/
theorem selected_congr {flag : Bool} {arg arg' : Option Rat} (h : flag = true → arg' = arg) (other : Option Rat) :
    selected flag arg' other = selected flag arg other := by
  cases flag with
  | true => rw [h rfl]
  | false => rfl

/-- An override is checked only where its flag is 1 (R92, R168). -/
theorem overrideBad_congr {flag : Bool} {arg arg' : Option Rat} (h : flag = true → arg' = arg) :
    overrideBad flag arg' = overrideBad flag arg := by
  cases flag with
  | true => rw [h rfl]
  | false => rfl

/-- A write that holds a mode and two resistances depends on the state only through what a transaction reads, if `g` also maps the
configured state of the one to that of the other. -/
theorem writeCommand_configure_map {s s' : State} {g : State → State} (h : SameTransactions s s' g) {m : WMode} {R N : Rat}
    (hc : SameTransactions (s.configure m R N) (s'.configure m R N) g) (addr value : Byte) :
    writeCommand addr value (fun t => t.configure m R N) s' =
      mapNext g (writeCommand addr value (fun t => t.configure m R N) s) := by
  cases hi : s.busIdle with
  | false => rw [writeCommand_refuses hi, writeCommand_refuses (h.busIdle.trans hi), mapNext_refused]
  | true =>
    have hi' := h.busIdle.trans hi
    have ha' := h.answerAt 0
    cases ha : s.answerAt 0 with
    | ok bs =>
      rw [writeCommand_configure_ok hi ha, writeCommand_configure_ok hi' (ha'.trans ha), mapNext_next, hc.finished]
    | fail k => rw [writeCommand_fail hi ha, writeCommand_fail hi' (ha'.trans ha), mapNext_next, h.finished]
    | hang => rw [writeCommand_hang hi ha, writeCommand_hang hi' (ha'.trans ha), mapNext_next, h.stuckIn]

/-! The checks of the two commands that have more than one, as a whole. -/

/-- A check of `INIT` fails, or all three pass (R144). -/
theorem initChecks_cases (s : State) (mode : BitVec 2) (ur un : Bool) :
    (wmodeOfField mode = none ∨ positive (selected ur s.argR (some rrefDefault)) = none ∨
      positive (selected un s.argN (some rnomDefault)) = none) ∨
    ∃ m R N, wmodeOfField mode = some m ∧ positive (selected ur s.argR (some rrefDefault)) = some R ∧
      positive (selected un s.argN (some rnomDefault)) = some N := by
  cases wmodeOfField mode with
  | none => exact .inl (.inl rfl)
  | some m =>
    cases positive (selected ur s.argR (some rrefDefault)) with
    | none => exact .inl (.inr (.inl rfl))
    | some R =>
      cases positive (selected un s.argN (some rnomDefault)) with
      | none => exact .inl (.inr (.inr rfl))
      | some N => exact .inr ⟨m, R, N, rfl, rfl, rfl⟩

/-- A check of `RDTMP` on a configured block rejects an override, or the handle lacks a value, or both resistances are there (R168,
R169). -/
theorem rdtmpChecks_cases (s : State) (ur un : Bool) :
    (overrideBad ur s.argR = true ∨ overrideBad un s.argN = true) ∨
    (overrideBad ur s.argR = false ∧ overrideBad un s.argN = false ∧
      (positive (selected ur s.argR s.rref) = none ∨ positive (selected un s.argN s.rnom) = none)) ∨
    ∃ R N, positive (selected ur s.argR s.rref) = some R ∧ positive (selected un s.argN s.rnom) = some N := by
  cases overrideBad ur s.argR with
  | true => exact .inl (.inl rfl)
  | false =>
    cases overrideBad un s.argN with
    | true => exact .inl (.inr rfl)
    | false =>
      cases positive (selected ur s.argR s.rref) with
      | none => exact .inr (.inl ⟨rfl, rfl, .inl rfl⟩)
      | some R =>
        cases positive (selected un s.argN s.rnom) with
        | none => exact .inr (.inl ⟨rfl, rfl, .inr rfl⟩)
        | some N => exact .inr (.inr ⟨R, N, rfl, rfl⟩)

/-! Each command that checks something, from two states that its checks and its transaction do not tell apart. -/

section Map

variable {s s' : State} {g : State → State} {ur un : Bool}

/-- `INIT` depends on the state only through its checks and its transaction. -/
theorem execInit_map (h : SameTransactions s s' g) (hk : SameChecks ur un s s')
    (hc : ∀ m R N, SameTransactions (s.configure m R N) (s'.configure m R N) g) (mode : BitVec 2) :
    execInit mode ur un s' = mapNext g (execInit mode ur un s) := by
  have hselR := selected_congr hk.argR (some rrefDefault)
  have hselN := selected_congr hk.argN (some rnomDefault)
  cases hd : s.dstate with
  | configured => rw [execInit_eState hd, execInit_eState (hk.dstate.trans hd), mapNext_next, h.finished]
  | unconfigured =>
    have hd' := hk.dstate.trans hd
    obtain hbad | ⟨m, R, N, hm, hR, hN⟩ := initChecks_cases s mode ur un
    · rw [execInit_eParam hd hbad, execInit_eParam hd' (by rwa [hselR, hselN]), mapNext_next, h.finished]
    · rw [execInit_eq_writeCommand hd hm hR hN,
        execInit_eq_writeCommand hd' hm (hselR ▸ hR) (hselN ▸ hN), writeCommand_configure_map h (hc m R N)]

/-- `RDRAW` depends on the state only through its check and its transaction. -/
theorem execRdraw_map (h : SameTransactions s s' g) (hk : SameChecks ur un s s') :
    execRdraw s' = mapNext g (execRdraw s) := by
  cases hd : s.dstate with
  | unconfigured => rw [execRdraw_eState hd, execRdraw_eState (hk.dstate.trans hd), mapNext_next, h.finished]
  | configured =>
    rw [execRdraw_eq_rawCodeRead hd, execRdraw_eq_rawCodeRead (hk.dstate.trans hd)]
    exact readCommand_map h _ _ _

/-- `RDRES` depends on the state only through its checks and its transaction. -/
theorem execRdres_map (h : SameTransactions s s' g) (hk : SameChecks ur un s s') :
    execRdres ur s' = mapNext g (execRdres ur s) := by
  have hbadR := overrideBad_congr hk.argR
  have hselR : selected ur s'.argR s'.rref = selected ur s.argR s.rref := by rw [hk.rref, selected_congr hk.argR]
  cases hd : s.dstate with
  | unconfigured => rw [execRdres_eState hd, execRdres_eState (hk.dstate.trans hd), mapNext_next, h.finished]
  | configured =>
    have hd' := hk.dstate.trans hd
    cases hur : overrideBad ur s.argR with
    | true => rw [execRdres_eParam hd hur, execRdres_eParam hd' (hbadR.trans hur), mapNext_next, h.finished]
    | false =>
      cases hR : positive (selected ur s.argR s.rref) with
      | none => rw [execRdres_fault hd hur hR, execRdres_fault hd' (hbadR.trans hur) (hselR ▸ hR), mapNext_fault]
      | some R =>
        rw [execRdres_eq_rawCodeRead hd hR, execRdres_eq_rawCodeRead hd' (hselR ▸ hR)]
        exact readCommand_map h _ _ _

/-- `RDTMP` depends on the state only through its checks and its transaction. -/
theorem execRdtmp_map (h : SameTransactions s s' g) (hk : SameChecks ur un s s') :
    execRdtmp ur un s' = mapNext g (execRdtmp ur un s) := by
  have hbadR := overrideBad_congr hk.argR
  have hbadN := overrideBad_congr hk.argN
  have hselR : selected ur s'.argR s'.rref = selected ur s.argR s.rref := by rw [hk.rref, selected_congr hk.argR]
  have hselN : selected un s'.argN s'.rnom = selected un s.argN s.rnom := by rw [hk.rnom, selected_congr hk.argN]
  cases hd : s.dstate with
  | unconfigured => rw [execRdtmp_eState hd, execRdtmp_eState (hk.dstate.trans hd), mapNext_next, h.finished]
  | configured =>
    have hd' := hk.dstate.trans hd
    obtain hbad | ⟨hur, hun, hmissing⟩ | ⟨R, N, hR, hN⟩ := rdtmpChecks_cases s ur un
    · rw [execRdtmp_eParam hd hbad, execRdtmp_eParam hd' (by rwa [hbadR, hbadN]), mapNext_next, h.finished]
    · rw [execRdtmp_fault hd hur hun hmissing,
        execRdtmp_fault hd' (hbadR.trans hur) (hbadN.trans hun) (by rwa [hselR, hselN]), mapNext_fault]
    · rw [execRdtmp_eq_rawCodeRead hd hR hN, execRdtmp_eq_rawCodeRead hd' (hselR ▸ hR) (hselN ▸ hN)]
      exact readCommand_map h _ _ _

end Map

/-- `DEINIT` finishes with no serial call on the state without a handle (R149). -/
theorem exec_deinit (s : State) : exec .deinit s = .next (s.unconfigure.finished 0 [] .ok .none) := by
  rw [deinitEndsHandle.2 s]; simp [State.finished, State.unconfigure]

/-- `s` with another record of what the bus and the response port showed (log 3). -/
def State.withRecord (s : State) (tr : List BusEvent) (rs : List Response) : State := { s with trace := tr, responses := rs }

/-- The end state `t` of a command run from `s`, with what `s` had on record replaced by `tr` and `rs`. -/
def State.replaceRecord (s : State) (tr : List BusEvent) (rs : List Response) (t : State) : State :=
  { t with trace := tr ++ t.trace.drop s.trace.length, responses := rs ++ t.responses.drop s.responses.length }

/-- No transaction reads the record (R203, R34). -/
theorem sameTransactions_record (s : State) (tr : List BusEvent) (rs : List Response) :
    SameTransactions s (s.withRecord tr rs) (s.replaceRecord tr rs) where
  busIdle := rfl
  answerAt _ := rfl
  draws := rfl
  finished _ _ _ _ := by simp [State.replaceRecord, State.withRecord, State.finished]
  stuckIn _ _ _ := by simp [State.replaceRecord, State.withRecord, State.stuckIn]

/-- No check reads the record. -/
theorem sameChecks_record (s : State) (tr : List BusEvent) (rs : List Response) (ur un : Bool) :
    SameChecks ur un s (s.withRecord tr rs) :=
  ⟨rfl, rfl, rfl, rfl, fun _ => rfl, fun _ => rfl⟩

/-- Settles O51: neither the checks nor the transaction of a command read the record, and what `INIT` and `DEINIT` write is no part
of it. -/
theorem observationsNeverRead : Obligations.ObservationsNeverRead := by
  intro i s tr rs
  have h := sameTransactions_record s tr rs
  show exec i (s.withRecord tr rs) = mapNext (s.replaceRecord tr rs) (exec i s)
  cases i with
  | xwr addr value => exact writeCommand_id_map h addr value
  | xrd addr n => exact readCommand_map h addr n _
  | init mode ur un =>
    exact execInit_map h (sameChecks_record s tr rs ur un) (fun m R N => sameTransactions_record (s.configure m R N) tr rs) mode
  | rdraw => exact execRdraw_map h (sameChecks_record s tr rs false false)
  | rdres ur => exact execRdres_map h (sameChecks_record s tr rs ur false)
  | rdtmp ur un => exact execRdtmp_map h (sameChecks_record s tr rs ur un)
  | deinit =>
    rw [exec_deinit, exec_deinit, mapNext_next]
    exact congrArg _ ((sameTransactions_record s.unconfigure tr rs).finished 0 [] .ok .none)
  | wframe a d => exact writeCommand_id_map h (frameAddr a) d
  | rframe a => exact readCommand_map h (frameAddr a) s.argLen _

/-- No transaction reads `arg_r`. -/
theorem sameTransactions_argR (s : State) (q : Option Rat) :
    SameTransactions s { s with argR := q } (fun t => { t with argR := q }) where
  busIdle := rfl
  answerAt _ := rfl
  draws := rfl
  finished _ _ _ _ := rfl
  stuckIn _ _ _ := rfl

/-- No transaction reads `arg_n`. -/
theorem sameTransactions_argN (s : State) (q : Option Rat) :
    SameTransactions s { s with argN := q } (fun t => { t with argN := q }) where
  busIdle := rfl
  answerAt _ := rfl
  draws := rfl
  finished _ _ _ _ := rfl
  stuckIn _ _ _ := rfl

/-- Settles O52: the checks read a side operand only where its flag is 1, and the transaction never. -/
theorem unselectedOperandsIgnored : Obligations.UnselectedOperandsIgnored := by
  intro s mode f q
  have hR := sameTransactions_argR s q
  have hN := sameTransactions_argN s q
  have hkR : SameChecks false f s { s with argR := q } := ⟨rfl, rfl, rfl, rfl, nofun, fun _ => rfl⟩
  have hkN : SameChecks f false s { s with argN := q } := ⟨rfl, rfl, rfl, rfl, fun _ => rfl, nofun⟩
  constructor
  · rintro i (rfl | rfl | rfl)
    · exact execInit_map hR hkR (fun m R N => sameTransactions_argR (s.configure m R N) q) mode
    · exact execRdres_map hR hkR
    · exact execRdtmp_map hR hkR
  · rintro i (rfl | rfl | rfl)
    · exact execInit_map hN hkN (fun m R N => sameTransactions_argN (s.configure m R N) q) mode
    · exact execRdres_map hN hkN
    · exact execRdtmp_map hN hkN

/-! ### The invariant -/

/-- The invariant in the terms of the state. -/
theorem State.inv_iff {s : State} :
    s.Inv ↔ (s.cs = .high ↔ s.phase = .idle) ∧ s.handleOk = true ∧ bracketFrom (some .outside) s.trace = some s.phase.bracket ∧
      ∀ r ∈ s.responses, r.okOrEmpty = true := by
  simp [State.Inv, State.lineOk, State.traceOk]

/-- Settles O5: high and idle, no handle, an empty trace, no response. -/
theorem resetMeetsInvariant : Obligations.ResetMeetsInvariant :=
  State.inv_iff.mpr ⟨iff_of_true rfl rfl, rfl, rfl, nofun⟩

/-- A response is `OK`, or it carries nothing (R95, R201). -/
theorem okOrEmpty_iff {st : Status} {p : Payload} : Response.okOrEmpty ⟨st, p⟩ = true ↔ st = .ok ∨ p = .none := by
  simp [Response.okOrEmpty]

/-! The bracket automaton over the events a command can show. -/

/-- The automaton reads a trace piece by piece. -/
theorem bracketFrom_append (b : Option Bracket) (ev ev' : List BusEvent) :
    bracketFrom b (ev ++ ev') = bracketFrom (bracketFrom b ev) ev' := by
  induction ev generalizing b with
  | nil => rfl
  | cons e rest ih => exact ih _

/-- Two pieces that follow one another. -/
theorem bracketFrom_append_of_eq {b b' b'' : Option Bracket} {ev ev' : List BusEvent} (h : bracketFrom b ev = b')
    (h' : bracketFrom b' ev' = b'') : bracketFrom b (ev ++ ev') = b'' := by
  rw [bracketFrom_append, h, h']

/-- The bytes a write sends are a whole write frame (R81, R111). -/
theorem bracketAfterTx_write (addr value : Byte) : bracketAfterTx [addr ||| 0x80#8, value] = some .wroteFrame := by
  have h7 : (addr ||| 0x80#8).getLsbD 7 = true := by revert addr; decide
  rw [bracketAfterTx, decodeFrame, if_pos h7]

/-- The byte a read sends is a read frame's header (R82, R112). -/
theorem bracketAfterTx_read (addr : Byte) : bracketAfterTx [addr &&& 0x7F#8] = some .sentHeader := by
  have h7 : (addr &&& 0x7F#8).getLsbD 7 = false := by revert addr; decide
  rw [bracketAfterTx, decodeFrame, h7]; rfl

/-- A write that succeeded shows one bracket (R114, R115). -/
theorem bracketFrom_write (addr value : Byte) :
    bracketFrom (some .outside) [.csLow, .tx [addr ||| 0x80#8, value], .csHigh] = some .outside := by
  simp [bracketFrom, bracketStep, bracketAfterTx_write]

/-- A transmit that failed is released at once (R113, R114). -/
theorem bracketFrom_txFail (part : List Byte) :
    bracketFrom (some .outside) [.csLow, .txFail part, .csHigh] = some .outside := rfl

/-- A read's header alone leaves the bracket open (R118). -/
theorem bracketFrom_header (addr : Byte) :
    bracketFrom (some .outside) [.csLow, .tx [addr &&& 0x7F#8]] = some .sentHeader := by
  simp [bracketFrom, bracketStep, bracketAfterTx_read]

/-- A read that succeeded shows one bracket: it received at least one byte (R114, R118). -/
theorem bracketFrom_read (addr : Byte) {got : List Byte} (hgot : got ≠ []) :
    bracketFrom (some .outside) [.csLow, .tx [addr &&& 0x7F#8], .rx got, .csHigh] = some .outside := by
  obtain ⟨b, bs, rfl⟩ := List.exists_cons_of_ne_nil hgot
  simp [bracketFrom, bracketStep, bracketAfterTx_read]

/-- A receive that failed is released at once (R113, R114). -/
theorem bracketFrom_rxFail (addr : Byte) :
    bracketFrom (some .outside) [.csLow, .tx [addr &&& 0x7F#8], .rxFail, .csHigh] = some .outside := by
  simp [bracketFrom, bracketStep, bracketAfterTx_read]

/-- A release closes an open bracket, wherever the transaction stood (R232). -/
theorem bracketStep_csHigh {p : Phase} (hp : p ≠ .idle) : bracketStep p.bracket .csHigh = some .outside := by
  cases p with
  | idle => exact absurd rfl hp
  | selected | sent | received => rfl

/-! Each state operation keeps the invariant. -/

/-- A finished command keeps the invariant if its events lead from the bracket of the phase back to it, and an error carries no
payload. -/
theorem State.Inv.finished {s : State} (h : s.Inv) {calls : Nat} {ev : List BusEvent} {st : Status} {p : Payload}
    (hev : bracketFrom (some s.phase.bracket) ev = some s.phase.bracket) (hp : st = .ok ∨ p = .none) :
    (s.finished calls ev st p).Inv := by
  obtain ⟨hline, hhandle, htrace, hresp⟩ := State.inv_iff.mp h
  refine State.inv_iff.mpr ⟨hline, hhandle, ?_, ?_⟩
  · exact bracketFrom_append_of_eq htrace hev
  · exact List.forall_mem_append.mpr ⟨hresp, List.forall_mem_singleton.mpr (okOrEmpty_iff.mpr hp)⟩

/-- From idle chip-select a command that showed whole brackets keeps the invariant. -/
theorem State.Inv.finished_of_busIdle {s : State} (h : s.Inv) (hb : s.busIdle = true) {calls : Nat} {ev : List BusEvent}
    {st : Status} {p : Payload} (hev : bracketFrom (some .outside) ev = some .outside) (hp : st = .ok ∨ p = .none) :
    (s.finished calls ev st p).Inv :=
  h.finished (by rw [(State.busIdle_iff.mp hb).2]; exact hev) hp

/-- From idle chip-select a command whose call never returns keeps the invariant if its events open the bracket of the phase it
stays in (R123). -/
theorem State.Inv.stuckIn {s : State} (h : s.Inv) (hb : s.busIdle = true) {ph : Phase} (hph : ph ≠ .idle) {calls : Nat}
    {ev : List BusEvent} (hev : bracketFrom (some .outside) ev = some ph.bracket) : (s.stuckIn ph calls ev).Inv := by
  obtain ⟨-, hhandle, htrace, hresp⟩ := State.inv_iff.mp h
  rw [(State.busIdle_iff.mp hb).2] at htrace
  exact State.inv_iff.mpr ⟨iff_of_false nofun hph, hhandle, bracketFrom_append_of_eq htrace hev, hresp⟩

/-- What a successful `INIT` holds is a whole handle (R145). -/
theorem State.Inv.configure {s : State} (h : s.Inv) (m : WMode) {R N : Rat} (hR : 0 < R) (hN : 0 < N) :
    (s.configure m R N).Inv := by
  obtain ⟨hline, -, htrace, hresp⟩ := State.inv_iff.mp h
  exact State.inv_iff.mpr ⟨hline, by simp [State.handleOk, positive_some hR, positive_some hN], htrace, hresp⟩

/-- `DEINIT` leaves no part of the handle (R149). -/
theorem State.Inv.unconfigure {s : State} (h : s.Inv) : s.unconfigure.Inv := by
  obtain ⟨hline, -, htrace, hresp⟩ := State.inv_iff.mp h
  exact State.inv_iff.mpr ⟨hline, rfl, htrace, hresp⟩

/-- A reset closes a bracket that is open (R231 to R233). -/
theorem State.Inv.blockReset {s : State} (h : s.Inv) : s.blockReset.Inv := by
  obtain ⟨-, -, htrace, hresp⟩ := State.inv_iff.mp h
  refine State.inv_iff.mpr ⟨iff_of_true rfl rfl, rfl, ?_, hresp⟩
  rw [State.blockReset_trace, State.blockReset_phase]
  split
  next hp => rw [htrace, hp]
  next hp => exact bracketFrom_append_of_eq htrace (bracketStep_csHigh hp)

/-- The inputs are no part of the invariant. -/
theorem State.inv_withInputs {s : State} {box : List HostEvent} {r n : Option Rat} {len : Nat} :
    (s.withInputs box r n len).Inv ↔ s.Inv := Iff.rfl

/-- Every instruction keeps the invariant, shape by shape. -/
theorem exec_keeps_inv {i : Instr} {s t : State} (hs : s.Inv) (h : exec i s = .next t) : t.Inv := by
  cases exec_shape h with
  | rejected => exact hs.finished rfl (.inr rfl)
  | deinit => exact hs.unconfigure.finished rfl (.inl rfl)
  | configured mode ur un m R N bs hi hd hb hR hN =>
    exact (hs.configure m hR hN).finished_of_busIdle hb (bracketFrom_write 0x00#8 (cfg m)) (.inl rfl)
  | wrote addr value bs hw hl hb => exact hs.finished_of_busIdle hb (bracketFrom_write addr value) (.inl rfl)
  | read addr n bs given p hr hn hb =>
    have hgot : rxBytes n given (s.draws + 1) ≠ [] := List.ne_nil_of_length_pos (by rw [rxBytes_length]; exact hn)
    exact hs.finished_of_busIdle hb (bracketFrom_read addr hgot) (.inl rfl)
  | txFailed part k hb => exact hs.finished_of_busIdle hb (bracketFrom_txFail part) (.inr rfl)
  | rxFailed addr n k bs hr hn hb => exact hs.finished_of_busIdle hb (bracketFrom_rxFail addr) (.inr rfl)
  | txHangs hb => exact hs.stuckIn hb (ph := .selected) nofun rfl
  | rxHangs addr n bs hr hn hb => exact hs.stuckIn hb (ph := .sent) nofun (bracketFrom_header addr)

/-- Settles O6: each of the four things a step can do keeps the invariant, and the inputs it takes are no part of it. -/
theorem stepKeepsInvariant : Obligations.StepKeepsInvariant := by
  intro s t hs h
  obtain ⟨-, rfl⟩ | ⟨u, hf, rfl⟩ | ⟨i, u, hf, hx⟩ | ⟨u, hf, rfl⟩ := step_cases h
  · exact hs
  · obtain ⟨box, r, n, len, rfl⟩ := fetch_withInputs (.inl hf)
    exact (State.inv_withInputs.mpr hs).blockReset
  · obtain ⟨box, r, n, len, rfl⟩ := fetch_withInputs (.inr (.inl ⟨i, hf⟩))
    exact exec_keeps_inv (State.inv_withInputs.mpr hs) hx
  · obtain ⟨box, r, n, len, rfl⟩ := fetch_withInputs (.inr (.inr hf))
    rw [State.raise_eq_finished]
    exact (State.inv_withInputs.mpr hs).finished rfl (.inr rfl)

/-! ### No step stops -/

/-- A configured block that meets the invariant holds two positive resistances (R25, R26). -/
theorem State.handleOk_positive {s : State} (h : s.handleOk = true) (hd : s.dstate = .configured) :
    (∃ R, positive s.rref = some R) ∧ ∃ N, positive s.rnom = some N := by
  simp only [State.handleOk, hd, Bool.and_eq_true, Option.isSome_iff_exists] at h
  obtain ⟨⟨-, hR⟩, hN⟩ := h
  exact ⟨hR, hN⟩

/-- Where the override is not bad and the handle holds a positive value, the selected value is positive (R168). -/
theorem positive_selected_of_not_bad {flag : Bool} {arg held : Option Rat} (hbad : overrideBad flag arg = false)
    (hheld : ∃ q, positive held = some q) : positive (selected flag arg held) ≠ none := by
  cases flag with
  | true => simpa [overrideBad, selected, Option.isSome_iff_ne_none] using hbad
  | false =>
    obtain ⟨q, hq⟩ := hheld
    simp [selected, hq]

/-- From idle chip-select and a whole handle every instruction answers a next state: a rejection, or a transaction (R123, R247). -/
theorem exec_completes {s : State} (hb : s.busIdle = true) (hh : s.handleOk = true) (i : Instr) : ∃ t, exec i s = .next t := by
  cases i with
  | xwr | wframe => exact writeCommand_completes hb
  | xrd | rframe => exact readCommand_completes hb
  | deinit => exact ⟨_, rfl⟩
  | init mode ur un =>
    cases hd : s.dstate with
    | configured => exact ⟨_, execInit_eState hd mode ur un⟩
    | unconfigured =>
      obtain hbad | ⟨m, R, N, hm, hR, hN⟩ := initChecks_cases s mode ur un
      · exact ⟨_, execInit_eParam hd hbad⟩
      · exact (writeCommand_completes hb).imp fun _ => (execInit_eq_writeCommand hd hm hR hN).trans
  | rdraw =>
    cases hd : s.dstate with
    | unconfigured => exact ⟨_, execRdraw_eState hd⟩
    | configured => exact (readCommand_completes hb).imp fun _ => (execRdraw_eq_rawCodeRead hd).trans
  | rdres ur =>
    cases hd : s.dstate with
    | unconfigured => exact ⟨_, execRdres_eState hd ur⟩
    | configured =>
      obtain ⟨hrref, -⟩ := State.handleOk_positive hh hd
      cases hur : overrideBad ur s.argR with
      | true => exact ⟨_, execRdres_eParam hd hur⟩
      | false =>
        obtain ⟨R, hR⟩ := Option.ne_none_iff_exists'.mp (positive_selected_of_not_bad hur hrref)
        exact (readCommand_completes hb).imp fun _ => (execRdres_eq_rawCodeRead hd hR).trans
  | rdtmp ur un =>
    cases hd : s.dstate with
    | unconfigured => exact ⟨_, execRdtmp_eState hd ur un⟩
    | configured =>
      obtain ⟨hrref, hrnom⟩ := State.handleOk_positive hh hd
      obtain hbad | ⟨hur, hun, hR | hN⟩ | ⟨R, N, hR, hN⟩ := rdtmpChecks_cases s ur un
      · exact ⟨_, execRdtmp_eParam hd hbad⟩
      · exact absurd hR (positive_selected_of_not_bad hur hrref)
      · exact absurd hN (positive_selected_of_not_bad hun hrnom)
      · exact (readCommand_completes hb).imp fun _ => (execRdtmp_eq_rawCodeRead hd hR hN).trans

/-- Only a bare frame that is no frame has no meaning (log 5). -/
theorem fetch_eq_stop {s : State} {r : Refusal} (h : fetch s = .stop r) :
    ∃ sent len rest e, s.inbox = .frame sent len :: rest ∧ decodeFrame sent = .error e := by
  unfold fetch at h
  split at h
  · unfold fetchIdle at h
    split at h
    next => cases h
    next => cases h
    next w argR argN rest hbox => unfold fetchCommand at h; split at h <;> cases h
    next sent len rest hbox =>
      unfold fetchFrame at h
      split at h
      next => cases h
      next e he => exact ⟨sent, len, rest, e, hbox, he⟩
  · unfold fetchBusy at h
    split at h <;> cases h

/-- Settles O7: an accepted instruction starts from idle chip-select with a whole handle, and every event but a malformed frame has a
meaning. -/
theorem stepNeverStops : Obligations.StepNeverStops := by
  intro s hs hframes
  cases hf : fetch s with
  | wait => exact ⟨s, step_eq_self_of_wait hf⟩
  | reset u => exact ⟨_, step_of_reset hf⟩
  | illegal u => exact ⟨_, step_of_illegal hf⟩
  | run i u =>
    have hrun : fetch s = .reset u ∨ (∃ i, fetch s = .run i u) ∨ fetch s = .illegal u := .inr (.inl ⟨i, hf⟩)
    have hidle : s.phase = .idle := (fetch_frame hrun).2 (by simp [hf])
    obtain ⟨hline, hhandle, -, -⟩ := State.inv_iff.mp hs
    obtain ⟨box, r, n, len, rfl⟩ := fetch_withInputs hrun
    obtain ⟨t, ht⟩ := exec_completes (s := s.withInputs box r n len) (State.busIdle_iff.mpr ⟨hline.mpr hidle, hidle⟩) hhandle i
    exact ⟨t, (step_of_run hf).trans ht⟩
  | stop r =>
    obtain ⟨sent, len, rest, e, hbox, he⟩ := fetch_eq_stop hf
    obtain ⟨i, hi⟩ := hframes sent len rest hbox
    rw [he] at hi; cases hi

end Sys2Proof.Machine

end
